-- ==== Sys2Proof/Word.lean ====
section
/-! DEFINITION. The word types of the ULZ core (00_scope.md rules R7, R8). -/

namespace Sys2Proof

/-- One byte of IN, OUT or the token stream (20_memory.md R60, R61). -/
abbrev Byte := BitVec 8

/-- A position register, a table entry or a 32-bit host register: `SLOT_BITS` = 32 (00_scope.md R7). -/
abbrev Word := BitVec 32

/-- A non-negative integer stored in a 32-bit register. -/
abbrev Word.ofNat (n : Nat) : Word := BitVec.ofNat 32 n

/-- An integer stored in a 32-bit two's complement register (R8 `sext_32`). -/
abbrev Word.ofInt (i : Int) : Word := BitVec.ofInt 32 i

end Sys2Proof
end

