-- ==== Sys2Proof/Config.lean ====
section
/-! DEFINITION. The fixed constants of the hardware (00_scope.md R6, R7), its one open parameter, and the free
values: constants without a body that stand for every value the spec leaves unspecified. -/

namespace Sys2Proof.Config

/-- Number of Tail slots (R6). -/
@[simp] def WINDOW_SIZE : Nat := 131072
/-- Turns a position into its Tail slot (R6). -/
@[simp] def WINDOW_MASK : Nat := 131071
/-- Shortest encoded match (R6). -/
@[simp] def MIN_MATCH : Nat := 4
/-- Hash table size exponent (R6). -/
@[simp] def HASH_BITS : Nat := 18
/-- Number of Head entries (R6). -/
@[simp] def HASH_SIZE : Nat := 262144
/-- Bytes of padding past each buffer (R6, R62, R63). -/
@[simp] def EXCESS : Nat := 16
/-- "No prior position": -1 in 32-bit two's complement (R6, R30). -/
@[simp] def NIL : Word := 0xFFFFFFFF
/-- The hash multiplier (R6, R131). -/
@[simp] def HASH_MUL : Word := 0x9E3779B9
/-- Pending-run threshold of the degenerate-match suppression (R6, R163). -/
@[simp] def RUN_SUPPRESS : Nat := 135
/-- Largest `in_len` of a COMPRESS (R7). -/
@[simp] def MAX_IN_LEN : Nat := 2139095024
/-- Largest `in_len` of a DECOMPRESS, and largest `OUT_CAP` of any command (R7, R44). -/
@[simp] def MAX_LEN : Nat := 2147483631
/-- The error sentinel, -1 (R7, R46, R241). -/
@[simp] def ERR : Word := 0xFFFFFFFF

/-- The parameter `DIST0` (R7, R208): what the Decoder does with an encoded distance of 0. -/
inductive Dist0 where
  | selfcopy
  | error
deriving DecidableEq, Repr

/-- FREE VALUE (assumption 5): the `k`-th byte whose value the spec leaves unspecified (R63, R205, R208, R244). -/
opaque freeByte (k : Nat) : Byte

/-- FREE VALUE (assumption 5): the `k`-th draw of a register of `w` bits that the spec leaves unspecified
(R244; 93_implementation_defined.md U16). -/
opaque freeBits (w k : Nat) : BitVec w

end Sys2Proof.Config
end

