-- ==== Sys2Proof/Syntax.lean ====
section
/-! DEFINITION. The instructions: one constructor for every row of spec/opcode_table.json, in the table's order.
Three kinds (00_scope.md R2): the two host commands, the eight token forms, and the 22 internal operations. -/

namespace Sys2Proof

/-- The two byte memories (20_memory.md R60, R61). -/
inductive Space where
  | input
  | output
deriving DecidableEq, Repr

/-- An instruction of the ULZ core. -/
inductive Instr where
  /-- COMPRESS (R160), `CMD` = 0. -/
  | compress
  /-- DECOMPRESS (R200), `CMD` = 1. -/
  | decompress
  /-- M.X (R221): match only, length 19 + `lenVar`. -/
  | mX (lenVar : Nat) (dist : BitVec 17)
  /-- M.S (R220): match only, length `lenCode` + 4. -/
  | mS (lenCode : BitVec 4) (dist : BitVec 17)
  /-- LM.XX (R225): 7 or more literals, then a match of length 19 + `lenVar`. -/
  | lmXX (lits : List Byte) (lenVar : Nat) (dist : BitVec 17)
  /-- LM.XS (R224): 7 or more literals, then a match of length `lenCode` + 4. -/
  | lmXS (lits : List Byte) (lenCode : BitVec 4) (dist : BitVec 17)
  /-- LM.SX (R223): 1 to 6 literals, then a match of length 19 + `lenVar`. -/
  | lmSX (lits : List Byte) (lenVar : Nat) (dist : BitVec 17)
  /-- LM.SS (R222): 1 to 6 literals, then a match of length `lenCode` + 4. -/
  | lmSS (lits : List Byte) (lenCode : BitVec 4) (dist : BitVec 17)
  /-- L.X (R227): 7 or more final literals; `low` are the five ignored tag bits. -/
  | lX (low : BitVec 5) (lits : List Byte)
  /-- L.S (R226): 1 to 6 final literals; `low` are the five ignored tag bits. -/
  | lS (low : BitVec 5) (lits : List Byte)
  /-- HASH(x) (R131). -/
  | hash (x : Nat)
  /-- INSERT(q) (R132). -/
  | insert (q : Nat)
  /-- FIND_MATCH(p) (R134). -/
  | findMatch (p : Nat)
  /-- PROBE(x, target_len) (R138). -/
  | probe (x targetLen : Nat)
  /-- START_COMPRESS (R161). -/
  | startCompress
  /-- DECIDE at the position held in register `p` (R162). -/
  | decidePos
  /-- SUPPRESS (R163). -/
  | suppress
  /-- LAZY (R164). -/
  | lazy
  /-- EMIT_MATCH (R165). -/
  | emitMatch
  /-- EMITVAR(x) (R166). -/
  | emitvar (x : Nat)
  /-- ACCEPT (R167). -/
  | accept
  /-- LITERAL (R168). -/
  | literal
  /-- EMIT_FINAL (R169). -/
  | emitFinal
  /-- VARINT_ENC(x) (R95). -/
  | varintEnc (x : Nat)
  /-- VARINT_DEC over the given stream bytes (R96). -/
  | varintDec (bytes : List Byte)
  /-- FETCH (R202). -/
  | fetch
  /-- DECVAR (R204). -/
  | decvar
  /-- LITPHASE on the tag in register `tag` (R203). -/
  | litphase
  /-- MATCHPHASE on the tag in register `tag` (R207). -/
  | matchphase
  /-- MATCHCOPY(len, dist) (R208). -/
  | matchcopy (len : Nat) (dist : BitVec 17)
  /-- WILDCOPY(dspace, d, sspace, s, n) (R205). -/
  | wildcopy (dspace : Space) (d : Nat) (sspace : Space) (s n : Nat)
  /-- BYTECOPY(d, s, n) (R206). -/
  | bytecopy (d s n : Nat)
deriving DecidableEq, Repr

/-- The eight token forms: the instructions the Decoder fetches from IN (R2 (b)). -/
def Instr.isToken : Instr → Bool
  | .mX .. | .mS .. | .lmXX .. | .lmXS .. | .lmSX .. | .lmSS .. | .lX .. | .lS .. => true
  | .compress | .decompress | .hash .. | .insert .. | .findMatch .. | .probe .. | .startCompress | .decidePos
  | .suppress | .lazy | .emitMatch | .emitvar .. | .accept | .literal | .emitFinal | .varintEnc .. | .varintDec ..
  | .fetch | .decvar | .litphase | .matchphase | .matchcopy .. | .wildcopy .. | .bytecopy .. => false

/-- The final, literals-only tokens (R93): only these need the stream to end behind them. -/
def Instr.isFinal : Instr → Bool
  | .lX .. | .lS .. => true
  | .mX .. | .mS .. | .lmXX .. | .lmXS .. | .lmSX .. | .lmSS .. | .compress | .decompress | .hash .. | .insert ..
  | .findMatch .. | .probe .. | .startCompress | .decidePos | .suppress | .lazy | .emitMatch | .emitvar .. | .accept
  | .literal | .emitFinal | .varintEnc .. | .varintDec .. | .fetch | .decvar | .litphase | .matchphase
  | .matchcopy .. | .wildcopy .. | .bytecopy .. => false

end Sys2Proof
end

