-- ==== Sys2Proof/WellFormed.lean ====
section
/-! DEFINITION. Which instruction terms the spec's encodings and operand domains admit. What depends on the state
(a position below `in_len`, a byte that exists) is checked by the meanings. -/

namespace Sys2Proof

/-- The first value VARINT_ENC does not write in 5 bytes (30_encoding.md R95, R97). -/
def varintLimit : Nat := 34630287488

/-- A match length that fits the short field (R98): `len_code` 15 announces a varint. -/
def shortLen (lenCode : BitVec 4) : Bool := decide (lenCode ≠ 15)

/-- A value a varint of at most 5 bytes carries canonically (R97). -/
def varintFits (x : Nat) : Bool := decide (x < varintLimit)

/-- A literal run that fits the 3-bit field: `run_code` 1 to 6 (R91, R94). -/
def shortRun (lits : List Byte) : Bool := decide (1 ≤ lits.length) && decide (lits.length ≤ 6)

/-- A literal run written as 7 plus a varint (R94). -/
def longRun (lits : List Byte) : Bool := decide (7 ≤ lits.length) && varintFits (lits.length - 7)

/-- A byte list that is one complete varint (R96): every byte but the last has its high bit set, the last is below
128 or the fifth. -/
def varintWhole : Nat → List Byte → Bool
  | 0, _ => false
  | _ + 1, [] => false
  | n + 1, c :: bs => if c.toNat < 128 ∨ n = 0 then bs.isEmpty else varintWhole n bs

/-- Operands inside the encoding and inside the domain the instruction's rule states. -/
def Instr.wf : Instr → Bool
  | .compress => true
  | .decompress => true
  | .mX lenVar _ => varintFits lenVar
  | .mS lenCode _ => shortLen lenCode
  | .lmXX lits lenVar _ => longRun lits && varintFits lenVar
  | .lmXS lits lenCode _ => longRun lits && shortLen lenCode
  | .lmSX lits lenVar _ => shortRun lits && varintFits lenVar
  | .lmSS lits lenCode _ => shortRun lits && shortLen lenCode
  | .lX _ lits => longRun lits
  | .lS _ lits => shortRun lits
  | .hash _ => true
  | .insert _ => true
  | .findMatch _ => true
  | .probe _ targetLen => decide (5 ≤ targetLen)
  | .startCompress => true
  | .decidePos => true
  | .suppress => true
  | .lazy => true
  | .emitMatch => true
  | .emitvar x => varintFits x
  | .accept => true
  | .literal => true
  | .emitFinal => true
  | .varintEnc x => varintFits x
  | .varintDec bytes => varintWhole 5 bytes
  | .fetch => true
  | .decvar => true
  | .litphase => true
  | .matchphase => true
  | .matchcopy len _ => decide (4 ≤ len)
  | .wildcopy dspace d sspace s n =>
    decide (dspace = .output) && decide (1 ≤ n) && (decide (sspace = .input) || decide (s + 4 ≤ d))
  | .bytecopy d s n => decide (1 ≤ n) && decide (s < d) && decide (d ≤ s + 3)

end Sys2Proof
end

