-- ==== Sys2Proof/Decode.lean ====
section
/-! DEFINITION. The token decoder and the encoder, both written from 30_encoding.md, and the command codes.
The decoder reads the remaining stream, `IN[ip .. in_len-1]`: where the list ends the stream ends, which is what tells
an L token from an LM token (R93). It is total; the only streams it rejects are those that end inside a token. -/

namespace Sys2Proof

/-! ## The varint (R95, R96) -/

/-- VARINT_ENC with `fuel` rounds of its loop (R95). -/
def varintEncLoop : Nat → Nat → List Byte
  | 0, x => [BitVec.ofNat 8 x]
  | fuel + 1, x =>
    if 128 ≤ x then BitVec.ofNat 8 (128 + (x - 128) % 128) :: varintEncLoop fuel ((x - 128) / 128)
    else [BitVec.ofNat 8 x]

/-- VARINT_ENC(x) (R95): groups of 7 bits, least significant first, each group but the last biased by 128. -/
def varintEnc (x : Nat) : List Byte := varintEncLoop x x

/-- `vlen(x)` (R97): how many bytes VARINT_ENC(x) has. -/
def vlen (x : Nat) : Nat := (varintEnc x).length

/-- VARINT_DEC from byte `i` on, at most `n` more bytes: the value and the bytes left, or `none` where the bytes end
inside the varint (R96). The whole byte is added, its bit 7 included, and the sum is exact. -/
def varintDecLoop : Nat → Nat → List Byte → Option (Nat × List Byte)
  | 0, _, bs => some (0, bs)
  | _ + 1, _, [] => none
  | n + 1, i, c :: bs =>
    if c.toNat < 128 then some (c.toNat <<< (7 * i), bs)
    else
      match varintDecLoop n (i + 1) bs with
      | none => none
      | some (x, rest) => some (c.toNat <<< (7 * i) + x, rest)

/-- VARINT_DEC (R96): 1 to 5 bytes. -/
def varintDec (bs : List Byte) : Option (Nat × List Byte) := varintDecLoop 5 0 bs

/-! ## Tag fields (R91) and field assembly (R94, R98, R99) -/

/-- `tag >> 5`: the run code (R91). -/
def tagRunCode (tag : Byte) : Nat := (tag >>> 5).toNat
/-- Bit 4 of `tag`: the high bit of the distance (R91). -/
def tagDistHi (tag : Byte) : Nat := (tag >>> 4).toNat % 2
/-- `tag & 15`: the length code (R91). -/
def tagLenCode (tag : Byte) : BitVec 4 := tag.setWidth 4
/-- The low five bits of `tag`, ignored in an L token (R93). -/
def tagLow (tag : Byte) : BitVec 5 := tag.setWidth 5

/-- A tag byte `rrr d llll` (R91). -/
def mkTag (runCode distHi lenCode : Nat) : Byte := BitVec.ofNat 8 (runCode * 32 + distHi * 16 + lenCode)

/-- The distance: bit 16 from the tag, the low 16 bits little-endian (R99, R64). -/
def mkDist (distHi : Nat) (lo hi : Byte) : BitVec 17 := BitVec.ofNat 17 (distHi * 65536 + hi.toNat * 256 + lo.toNat)

/-- The bit of a distance that goes into the tag (R99). -/
def distHi (dist : BitVec 17) : Nat := dist.toNat / 65536
/-- `dist16`: the two low bytes of a distance, low byte first (R99). -/
def dist16 (dist : BitVec 17) : List Byte := [BitVec.ofNat 8 dist.toNat, BitVec.ofNat 8 (dist.toNat / 256)]

/-- Length of a match with a short length field (R98). -/
def shortMatchLen (lenCode : BitVec 4) : Nat := lenCode.toNat + 4
/-- Length of a match with an extended length field (R98). -/
def longMatchLen (lenVar : Nat) : Nat := 19 + lenVar

/-! ## The decoder -/

/-- Why the decoder finds no token. Each is answered by the Decoder's error exit (R241), none is undefined. -/
inductive Reject where
  /-- The stream is at its end: there is no tag byte. -/
  | noToken
  /-- The stream ends inside a varint or the distance field: cause E_FIELD (R202, R207). -/
  | fieldMissing
  /-- The literal run is longer than the rest of the stream: cause E_IN (R203). -/
  | literalsMissing
deriving DecidableEq, Repr

/-- `dist16` at the head of the stream (R92, R99). -/
def decodeDist (tag : Byte) : List Byte → Option (BitVec 17 × List Byte)
  | lo :: hi :: rest => some (mkDist (tagDistHi tag) lo hi, rest)
  | _ => none

/-- The match fields of a token, after its literals (R92): `short` or `long` builds the instruction, by the length
code. -/
def decodeMatch (tag : Byte) (bs : List Byte) (short : BitVec 4 → BitVec 17 → Instr) (long : Nat → BitVec 17 → Instr) :
    Except Reject (Instr × List Byte) :=
  if tagLenCode tag = 15 then
    match varintDec bs with
    | none => .error .fieldMissing
    | some (lenVar, bs) =>
      match decodeDist tag bs with
      | none => .error .fieldMissing
      | some (dist, rest) => .ok (long lenVar dist, rest)
  else
    match decodeDist tag bs with
    | none => .error .fieldMissing
    | some (dist, rest) => .ok (short (tagLenCode tag) dist, rest)

/-- The literals and what follows them, for a token of `run` literals: an L token where the stream ends behind them,
else an LM token (R93). -/
def decodeLits (run : Nat) (tag : Byte) (bs : List Byte) (final : BitVec 5 → List Byte → Instr)
    (short : List Byte → BitVec 4 → BitVec 17 → Instr) (long : List Byte → Nat → BitVec 17 → Instr) :
    Except Reject (Instr × List Byte) :=
  if bs.length < run then .error .literalsMissing
  else
    match bs.drop run with
    | [] => .ok (final (tagLow tag) (bs.take run), [])
    | b :: rest => decodeMatch tag (b :: rest) (short (bs.take run)) (long (bs.take run))

/-- One token from the head of the remaining stream, and the stream behind it (R90 to R103). -/
def decode : List Byte → Except Reject (Instr × List Byte)
  | [] => .error .noToken
  | tag :: bs =>
    if tagRunCode tag = 0 then decodeMatch tag bs .mS .mX
    else if tagRunCode tag = 7 then
      match varintDec bs with
      | none => .error .fieldMissing
      | some (x, bs) => decodeLits (7 + x) tag bs .lX .lmXS .lmXX
    else decodeLits (tagRunCode tag) tag bs .lS .lmSS .lmSX

/-- The command the 1-bit `CMD` register selects (R104). -/
def decodeCmd (cmd : BitVec 1) : Instr := if cmd = 0 then .compress else .decompress

/-! ## The encoder -/

/-- The run varint of 7 or more literals (R94). -/
def runVar (lits : List Byte) : List Byte := varintEnc (lits.length - 7)

/-- The bytes of a token (R92, R105). The commands are encoded in `CMD` (`encodeCmd`) and the internal operations have
no encoding (R2). -/
def encode : Instr → Option (List Byte)
  | .mS lenCode dist => some (mkTag 0 (distHi dist) lenCode.toNat :: dist16 dist)
  | .mX lenVar dist => some (mkTag 0 (distHi dist) 15 :: (varintEnc lenVar ++ dist16 dist))
  | .lmSS lits lenCode dist => some (mkTag lits.length (distHi dist) lenCode.toNat :: (lits ++ dist16 dist))
  | .lmSX lits lenVar dist => some (mkTag lits.length (distHi dist) 15 :: (lits ++ (varintEnc lenVar ++ dist16 dist)))
  | .lmXS lits lenCode dist => some (mkTag 7 (distHi dist) lenCode.toNat :: (runVar lits ++ (lits ++ dist16 dist)))
  | .lmXX lits lenVar dist =>
    some (mkTag 7 (distHi dist) 15 :: (runVar lits ++ (lits ++ (varintEnc lenVar ++ dist16 dist))))
  | .lS low lits => some (mkTag lits.length 0 low.toNat :: lits)
  | .lX low lits => some (mkTag 7 0 low.toNat :: (runVar lits ++ lits))
  | .compress | .decompress | .hash .. | .insert .. | .findMatch .. | .probe .. | .startCompress | .decidePos
  | .suppress | .lazy | .emitMatch | .emitvar .. | .accept | .literal | .emitFinal | .varintEnc .. | .varintDec ..
  | .fetch | .decvar | .litphase | .matchphase | .matchcopy .. | .wildcopy .. | .bytecopy .. => none

/-- The command codes (R41, R104). -/
def encodeCmd : Instr → Option (BitVec 1)
  | .compress => some 0
  | .decompress => some 1
  | .mX .. | .mS .. | .lmXX .. | .lmXS .. | .lmSX .. | .lmSS .. | .lX .. | .lS .. | .hash .. | .insert ..
  | .findMatch .. | .probe .. | .startCompress | .decidePos | .suppress | .lazy | .emitMatch | .emitvar .. | .accept
  | .literal | .emitFinal | .varintEnc .. | .varintDec .. | .fetch | .decvar | .litphase | .matchphase
  | .matchcopy .. | .wildcopy .. | .bytecopy .. => none

/-- The byte length of a token (R100); the other instructions take no stream bytes. -/
def Instr.byteLength : Instr → Nat
  | .mS .. => 3
  | .mX lenVar _ => 1 + vlen lenVar + 2
  | .lmSS lits .. => 1 + lits.length + 2
  | .lmSX lits lenVar _ => 1 + lits.length + vlen lenVar + 2
  | .lmXS lits .. => 1 + vlen (lits.length - 7) + lits.length + 2
  | .lmXX lits lenVar _ => 1 + vlen (lits.length - 7) + lits.length + vlen lenVar + 2
  | .lS _ lits => 1 + lits.length
  | .lX _ lits => 1 + vlen (lits.length - 7) + lits.length
  | .compress | .decompress | .hash .. | .insert .. | .findMatch .. | .probe .. | .startCompress | .decidePos
  | .suppress | .lazy | .emitMatch | .emitvar .. | .accept | .literal | .emitFinal | .varintEnc .. | .varintDec ..
  | .fetch | .decvar | .litphase | .matchphase | .matchcopy .. | .wildcopy .. | .bytecopy .. => 0

/-! ## The assembler of the token notation (R105): the field forms follow from the values -/

/-- `M len dist` where there are no literals, else `LM [lits] len dist` (R105, R94, R98). -/
def assembleMatch (lits : List Byte) (len : Nat) (dist : BitVec 17) : Instr :=
  if lits.length = 0 then
    if len < 19 then .mS (BitVec.ofNat 4 (len - 4)) dist else .mX (len - 19) dist
  else if lits.length < 7 then
    if len < 19 then .lmSS lits (BitVec.ofNat 4 (len - 4)) dist else .lmSX lits (len - 19) dist
  else
    if len < 19 then .lmXS lits (BitVec.ofNat 4 (len - 4)) dist else .lmXX lits (len - 19) dist

/-- `L [lits]` (R105): the low five bits are zero. -/
def assembleFinal (lits : List Byte) : Instr := if lits.length < 7 then .lS 0 lits else .lX 0 lits

/-! ## The opcode table's words -/

/-- The low `n` bytes of a word, the first at the lowest address. -/
def wordBytes : Nat → Nat → List Byte
  | 0, _ => []
  | n + 1, w => BitVec.ofNat 8 w :: wordBytes n (w / 256)

/-- How many bytes of a table word `tableStream` lays out: enough for every token whose operand bytes are zero. -/
def tableStreamLength (nbits : Nat) : Nat := nbits / 8 + 16

/-- A table word as a token stream: its bytes in order, then zeros. -/
def tableStream (nbits w : Nat) : List Byte := wordBytes (tableStreamLength nbits) w

/-- Whether a table word is a command code, that is a value of the 1-bit `CMD` register. The table's two command rows
stand before its token rows and the first row that matches wins (assumption 15). -/
def isCommandWord (nbits w : Nat) : Bool := decide (nbits ≤ 8) && decide (w < 2)

/-- The instruction read from a word of the opcode table. -/
def decodeTableWord (nbits w : Nat) : Option Instr :=
  if isCommandWord nbits w then some (decodeCmd (BitVec.ofNat 1 w))
  else
    match decode (tableStream nbits w) with
    | .ok (i, _) => some i
    | .error _ => none

end Sys2Proof
end

