-- ==== Sys2Proof/Machine/State.lean ====
section
/-! DEFINITION. The state of one ULZ core instance (10_state.md R20) with the memories the host lent it, the reasons a
step can stop, and the state after reset. Plain data only. -/

namespace Sys2Proof.Machine

/-- A byte memory (20_memory.md R60, R61): the bytes the host lent, addresses strictly rising. An address that is not
listed was not lent: it does not exist and holds no value (assumption 4). -/
abbrev Memory := List Host.Cell

/-- A Match Finder table (R30, R31): the entries that differ from `NIL`, indexes strictly rising. An index that is not
listed holds `NIL`. -/
abbrev Table := List (Nat × Word)

/-- `STATUS` (R45). -/
inductive Status where
  | idle
  | busy
  | done
deriving DecidableEq, Repr

/-- Encoder registers (R21). -/
structure EncRegs where
  p   : Word
  run : Word
  op  : Word
deriving DecidableEq, Repr

/-- Match Finder working registers (R22). DESIGN CHOICE (assumption 32): `h` has the 18 bits of R22's table, where R20's has 32
for each of these registers. -/
structure MatchRegs where
  h        : BitVec 18
  s        : Word
  limit    : Word
  chain    : Word
  bestLen  : Word
  dist     : Word
  len      : Word
  maxMatch : Word
deriving DecidableEq, Repr

/-- Decoder registers (R23); `run` and `len` are exact integers. -/
structure DecRegs where
  ip   : Word
  op   : Word
  tag  : Byte
  run  : Nat
  len  : Nat
  dist : BitVec 17
deriving DecidableEq, Repr

/-- What the host does between commands (R40 to R46, R280). The model's own rendering of the host (assumption 13). -/
inductive HostMove where
  /-- Write `CMD` (R41). -/
  | writeCmd (v : BitVec 1)
  /-- Write `LEVEL` (R42). -/
  | writeLevel (v : BitVec 4)
  /-- Write `IN_LEN` (R43). -/
  | writeInLen (v : Word)
  /-- Write `OUT_CAP` (R44). -/
  | writeOutCap (v : Word)
  /-- Lend an input memory at a base, with all its bytes, pad included (R60, R62). -/
  | lendIn (base : Nat) (bytes : List Byte)
  /-- Lend an output memory at a base, with all its bytes, slack included (R61, R63). -/
  | lendOut (base : Nat) (bytes : List Byte)
  /-- Store bytes into the lent input memory. -/
  | storeIn (addr : Nat) (bytes : List Byte)
  /-- Store bytes into the lent output memory. -/
  | storeOut (addr : Nat) (bytes : List Byte)
  /-- The START strobe (R45): one whole command, atomic for the host. -/
  | start
  /-- The same strobe seen from inside the core (assumption 12): the launch alone (R271, R272); the steps of the busy
  core follow. -/
  | startStepped
deriving DecidableEq, Repr

/-- The result of an internal operation, for the rule that invoked it (assumption 16). -/
inductive Ret where
  | none
  /-- HASH's result (R131). -/
  | hash (h : BitVec 18)
  /-- FIND_MATCH's result `NoMatch` (R134). -/
  | noMatch
  /-- FIND_MATCH's result `Match(best_len, dist)` (R134). -/
  | found (bestLen dist : Nat)
  /-- PROBE's truth value (R138). -/
  | truth (b : Bool)
  /-- FETCH's byte (R202). -/
  | byte (b : Byte)
  /-- VARINT_DEC's and DECVAR's integer (R96, R204). -/
  | value (x : Nat)
  /-- VARINT_ENC's bytes (R95). -/
  | bytes (bs : List Byte)
deriving DecidableEq, Repr

/-- The machine. -/
structure State where
  /-- `Head` (R30). -/
  head    : Table
  /-- `Tail` (R31). -/
  tail    : Table
  /-- Encoder registers (R21). -/
  enc     : EncRegs
  /-- Match Finder registers (R22). -/
  mf      : MatchRegs
  /-- Decoder registers (R23). -/
  dec     : DecRegs
  /-- `CMD` (R41). -/
  cmd     : BitVec 1
  /-- `LEVEL` (R42). -/
  level   : BitVec 4
  /-- `IN_LEN` (R43). -/
  inLen   : Word
  /-- `OUT_CAP` (R44). -/
  outCap  : Word
  /-- `STATUS` (R45). -/
  status  : Status
  /-- `RESULT` (R46). -/
  result  : Word
  /-- IN (R60). -/
  inMem   : Memory
  /-- OUT (R61). -/
  outMem  : Memory
  /-- The base the host chose for IN (R47, R68); the core never uses it (R76 is the host's obligation). -/
  inBase  : Nat
  /-- The base the host chose for OUT (R47, R68). -/
  outBase : Nat
  /-- The model's own: the parameter `DIST0`, an argument of the model (R7, R208); no step writes it. -/
  dist0   : Config.Dist0
  /-- The model's own: the host's moves still to come, oldest first (assumption 13). -/
  host    : List HostMove
  /-- The model's own: how many free values have been drawn (assumption 5). -/
  draws   : Nat
  /-- The model's own: what the last internal operation returned (assumption 16). -/
  ret     : Ret
deriving DecidableEq, Repr

/-- Why the machine stops with a fault. Both are SAFE: the spec gives such an access no meaning (R62, R63, R68), and no
command whose launch premises hold makes one. -/
inductive Fault where
  /-- Raised by an internal operation or a host store that reaches a byte of IN the host did not lend. Safe. -/
  | inAddress
  /-- Raised by an operation, a token or a host store that reaches a byte of OUT the host did not lend. Safe. -/
  | outAddress
deriving DecidableEq, Repr

/-- Why the machine refuses. All are SAFE: the spec gives these cases no meaning and asks a model to refuse
(60_exceptions.md R247). -/
inductive Refusal where
  /-- Raised by `exec` alone, for an instruction that has no meaning yet. Safe. -/
  | notModelled (mnemonic : String)
  /-- Raised by COMPRESS and DECOMPRESS: START while BUSY (R45, R247). Safe. -/
  | startWhileBusy
  /-- Raised by COMPRESS: `LEVEL` outside 1 to 9 (R42, R247). Safe. -/
  | levelIllegal
  /-- Raised by COMPRESS and DECOMPRESS: `IN_LEN` too large (R43, R247). Safe. -/
  | inLenTooLarge
  /-- Raised by COMPRESS and DECOMPRESS: `OUT_CAP` above `MAX_LEN` (R44, R247). Safe. -/
  | outCapTooLarge
  /-- Raised by COMPRESS: `OUT_CAP` below `in_len + floor(in_len/255) + 16` (R281, R247). Safe. -/
  | capacityTooSmall
  /-- Raised by COMPRESS and DECOMPRESS: IN with its pad is not all there (R62, R247). Safe. -/
  | inPadAbsent
  /-- Raised by COMPRESS and DECOMPRESS: OUT with its slack is not all there (R63, R247). Safe. -/
  | outSlackAbsent
  /-- Raised by COMPRESS and DECOMPRESS: IN and OUT overlap (R76, R247). Safe. -/
  | buffersOverlap
  /-- Raised by an internal operation invoked outside the domain its rule states for operands and registers
  (assumption 17); the core's own control never does that. Safe. -/
  | outsideDomain
  /-- Raised by `execToken` for an instruction that is no token; the decoder never yields one. Safe. -/
  | notAToken
deriving DecidableEq, Repr

/-- The answer of a meaning and of a step. -/
abbrev Result := Host.Outcome State Fault Refusal

/-- Error causes of the Decoder (60_exceptions.md R240): internal labels, not observable. -/
inductive Cause where
  | eOut
  | eIn
  | eDist
  | eTrail
  | eField
  | eDist0
deriving DecidableEq, Repr

/-- How a part of an instruction ends early: `raise Error(cause)` (R241), a fault or a refusal. -/
inductive Stop where
  | raise (c : Cause)
  | fault (f : Fault)
  | refuse (r : Refusal)
deriving DecidableEq, Repr

/-- Power-on reset (R55, R270): `STATUS` = IDLE. Everything else is unspecified there; the values below are the model's
(assumptions 1 to 5, 10, 13, 14, 16). -/
def State.reset : State where
  head := []
  tail := []
  enc := ⟨0, 0, 0⟩
  mf := ⟨0, 0, 0, 0, 0, 0, 0, 0⟩
  dec := ⟨0, 0, 0, 0, 0, 0⟩
  cmd := 0
  level := 0
  inLen := 0
  outCap := 0
  status := .idle
  result := 0
  inMem := []
  outMem := []
  inBase := 0
  outBase := 0
  dist0 := .selfcopy
  host := []
  draws := 0
  ret := .none

end Sys2Proof.Machine
end

