-- ==== Sys2Proof/Machine/Ops.lean ====
section
/-! DEFINITION. The named operations over memories, tables and registers; the free draws; the block copies; and the two
ways a command ends, the success exit and the error exit (the one exception of this hardware). -/

namespace Sys2Proof.Machine

/-! ## Byte memories -/

namespace Memory

/-- `IN[a]`, `OUT[a]` (R9); `none` where the host lent no such byte. -/
def byte? : Memory → Nat → Option Byte
  | [], _ => none
  | (x, b) :: rest, a => if x = a then some b else byte? rest a

/-- `OUT[a] <- v` (R9); `none` where the host lent no such byte. -/
def set? : Memory → Nat → Byte → Option Memory
  | [], _, _ => none
  | (x, b) :: rest, a, v =>
    if x = a then some ((x, v) :: rest)
    else
      match set? rest a v with
      | none => none
      | some rest => some ((x, b) :: rest)

/-- Bytes stored one after another from address `a`. -/
def setBytes? : Memory → Nat → List Byte → Option Memory
  | m, _, [] => some m
  | m, a, b :: bs =>
    match set? m a b with
    | none => none
    | some m => setBytes? m (a + 1) bs

/-- The `n` bytes from address `a`. -/
def slice (m : Memory) : Nat → Nat → Option (List Byte)
  | _, 0 => some []
  | a, n + 1 =>
    match byte? m a, slice m (a + 1) n with
    | some b, some bs => some (b :: bs)
    | _, _ => none

/-- Whether every byte `0 .. n-1` was lent. -/
def covers (m : Memory) (n : Nat) : Bool := (slice m 0 n).isSome

/-- `MemRead(space, a, n)`: little-endian (R9, R64). -/
def memRead (m : Memory) : Nat → Nat → Option Nat
  | _, 0 => some 0
  | a, n + 1 =>
    match byte? m a, memRead m (a + 1) n with
    | some b, some v => some (b.toNat + 256 * v)
    | _, _ => none

/-- The bytes `a .. a+n-1` take the free values number `k`, `k+1`, ... (assumption 5); bytes that were not lent stay
absent. -/
def scramble (a n k : Nat) : Memory → Memory
  | [] => []
  | (x, b) :: rest =>
    if a ≤ x ∧ x < a + n then (x, Config.freeByte (k + (x - a))) :: scramble a n k rest
    else (x, b) :: scramble a n k rest

/-- A lent memory from its bytes, the first at address `a`. -/
def ofBytes : Nat → List Byte → Memory
  | _, [] => []
  | a, b :: bs => (a, b) :: ofBytes (a + 1) bs

/-- Canonical form: addresses strictly rising. -/
def wf : Memory → Bool
  | [] => true
  | [_] => true
  | (x, _) :: (y, b) :: rest => decide (x < y) && wf ((y, b) :: rest)

end Memory

/-! ## The tables (R30, R31) -/

namespace Table

/-- `Head[k]`, `Tail[k]` (R9). -/
def get : Table → Nat → Word
  | [], _ => Config.NIL
  | (x, v) :: rest, k => if x = k then v else get rest k

/-- `Head[k] <- v`, `Tail[k] <- v` (R9); the canonical form lists no `NIL`. -/
def set : Table → Nat → Word → Table
  | [], k, v => if v = Config.NIL then [] else [(k, v)]
  | (x, w) :: rest, k, v =>
    if k < x then (if v = Config.NIL then (x, w) :: rest else (k, v) :: (x, w) :: rest)
    else if k = x then (if v = Config.NIL then rest else (k, v) :: rest)
    else (x, w) :: set rest k v

/-- Canonical form: indexes strictly rising and below `size`, no entry `NIL`. -/
def wf (size : Nat) : Table → Bool
  | [] => true
  | [(x, v)] => decide (x < size) && decide (v ≠ Config.NIL)
  | (x, v) :: (y, w) :: rest => decide (x < y) && decide (v ≠ Config.NIL) && wf size ((y, w) :: rest)

end Table

/-! ## Registers

Every register has one home; these are the writes the meanings use. -/

namespace State

def withHead (s : State) (v : Table) : State := { s with head := v }
def withTail (s : State) (v : Table) : State := { s with tail := v }
def withEnc (s : State) (v : EncRegs) : State := { s with enc := v }
def withMf (s : State) (v : MatchRegs) : State := { s with mf := v }
def withDec (s : State) (v : DecRegs) : State := { s with dec := v }
def withStatus (s : State) (v : Status) : State := { s with status := v }
def withResult (s : State) (v : Word) : State := { s with result := v }
def withOut (s : State) (v : Memory) : State := { s with outMem := v }
def withDraws (s : State) (v : Nat) : State := { s with draws := v }
def withRet (s : State) (v : Ret) : State := { s with ret := v }
def withHost (s : State) (v : List HostMove) : State := { s with host := v }

/-- Register `p` of the Encoder as a number (R21, R26). -/
abbrev pN (s : State) : Nat := s.enc.p.toNat
/-- Register `run` of the Encoder as a number (R21). -/
abbrev runN (s : State) : Nat := s.enc.run.toNat
/-- Register `op` of the Encoder as a number (R21). -/
abbrev encOp (s : State) : Nat := s.enc.op.toNat
/-- Register `ip` of the Decoder as a number (R23, R25). -/
abbrev ipN (s : State) : Nat := s.dec.ip.toNat
/-- Register `op` of the Decoder as a number (R23). -/
abbrev decOp (s : State) : Nat := s.dec.op.toNat
/-- `in_len` (R43). -/
abbrev inN (s : State) : Nat := s.inLen.toNat
/-- `out_len`, the declared capacity (R44). -/
abbrev capN (s : State) : Nat := s.outCap.toNat
/-- `best_len` as a number (R22). -/
abbrev bestN (s : State) : Nat := s.mf.bestLen.toNat
/-- The Match Finder's `dist` as a number (R22). -/
abbrev distN (s : State) : Nat := s.mf.dist.toNat

/-- `p <- v` (R26). -/
def setP (s : State) (v : Nat) : State := s.withEnc { s.enc with p := Word.ofNat v }
/-- `run <- v` of the Encoder (R21). -/
def setRun (s : State) (v : Nat) : State := s.withEnc { s.enc with run := Word.ofNat v }
/-- `op <- v` of the Encoder (R21). -/
def setEncOp (s : State) (v : Nat) : State := s.withEnc { s.enc with op := Word.ofNat v }
/-- `ip <- v` (R25). -/
def setIp (s : State) (v : Nat) : State := s.withDec { s.dec with ip := Word.ofNat v }
/-- `op <- v` of the Decoder (R23). -/
def setDecOp (s : State) (v : Nat) : State := s.withDec { s.dec with op := Word.ofNat v }
/-- `tag <- v` (R23). -/
def setTag (s : State) (v : Byte) : State := s.withDec { s.dec with tag := v }
/-- `run <- v` of the Decoder (R23). -/
def setDecRun (s : State) (v : Nat) : State := s.withDec { s.dec with run := v }
/-- `len <- v` of the Decoder (R23). -/
def setDecLen (s : State) (v : Nat) : State := s.withDec { s.dec with len := v }
/-- `dist <- v` of the Decoder (R23). -/
def setDecDist (s : State) (v : BitVec 17) : State := s.withDec { s.dec with dist := v }
/-- `best_len <- v` (R22). -/
def setBest (s : State) (v : Nat) : State := s.withMf { s.mf with bestLen := Word.ofNat v }

/-! ## Free draws (assumption 5) -/

/-- `OUT[a .. a+n-1] <- unspecified`, as far as those bytes exist (R9). -/
def clobber (s : State) (a n : Nat) : State :=
  (s.withOut (s.outMem.scramble a n s.draws)).withDraws (s.draws + n)

/-- Every Decoder register unspecified (R244; 93_implementation_defined.md U16). -/
def forgetDec (s : State) : State :=
  (s.withDec
    { ip := Config.freeBits 32 s.draws, op := Config.freeBits 32 (s.draws + 1), tag := Config.freeBits 8 (s.draws + 2),
      run := (Config.freeBits 37 (s.draws + 3)).toNat, len := (Config.freeBits 37 (s.draws + 4)).toNat,
      dist := Config.freeBits 17 (s.draws + 5) }).withDraws (s.draws + 6)

/-- Match Finder registers that no rule has assigned yet: free values (assumptions 5 and 28). -/
def freeMatchRegs (k : Nat) : MatchRegs :=
  { h := Config.freeBits 18 k, s := Config.freeBits 32 (k + 1), limit := Config.freeBits 32 (k + 2),
    chain := Config.freeBits 32 (k + 3), bestLen := Config.freeBits 32 (k + 4), dist := Config.freeBits 32 (k + 5),
    len := Config.freeBits 32 (k + 6), maxMatch := Config.freeBits 32 (k + 7) }

/-- What a search leaves in the Match Finder's registers; the free values it began with (R22) are used up. -/
def endSearch (s : State) (m : MatchRegs) : State := (s.withMf m).withDraws (s.draws + 8)

/-- A token begins: its tag is in `tag`, its run code in `run` (R94), and `len` and `dist` carry nothing over from an earlier
token (R23; assumption 31). -/
def beginToken (s : State) (tag : Byte) : State :=
  (s.withDec
    { s.dec with
      tag := tag, run := tagRunCode tag, len := (Config.freeBits 37 s.draws).toNat,
      dist := Config.freeBits 17 (s.draws + 1) }).withDraws (s.draws + 2)

/-- Every Encoder and Match Finder register unspecified (93_implementation_defined.md U16). -/
def forgetEnc (s : State) : State :=
  ((s.withEnc
    { p := Config.freeBits 32 s.draws, run := Config.freeBits 32 (s.draws + 1),
      op := Config.freeBits 32 (s.draws + 2) }).withMf (freeMatchRegs (s.draws + 3))).withDraws (s.draws + 11)

/-- `RESULT` is not valid while `STATUS` is BUSY (R46, R287; U16). -/
def forgetResult (s : State) : State :=
  (s.withResult (Config.freeBits 32 s.draws)).withDraws (s.draws + 1)

end State

/-! ## The ends of a command -/

/-- TAKING AN EXCEPTION: the error exit (R241) with the state it leaves (R244). `RESULT` is `ERR`, `STATUS` is DONE,
`OUT[0 .. out_len+14]` and the Decoder's registers are unspecified, nothing else changes. It saves no program counter
and no status, and there is no return from it (R241, R245). -/
def errorExit (s : State) : State :=
  (((s.clobber 0 (s.capN + 15)).forgetDec).withResult Config.ERR).withStatus .done

/-- The success exit of DECOMPRESS (R201, R210): `RESULT <- op`, `STATUS <- DONE`; `OUT[op .. op+14]` is the clobber
zone (R63, R286). -/
def finishDecompress (s : State) : State :=
  (((s.clobber s.decOp 15).forgetDec).withResult s.dec.op).withStatus .done

/-- The end of COMPRESS (R160, R171): `RESULT <- op`, `STATUS <- DONE`, with the clobber zone (R63, R286). -/
def finishCompress (s : State) : State :=
  (((s.clobber s.encOp 15).forgetEnc).withResult s.enc.op).withStatus .done

/-- The outcome of an instruction begun in `s`: an error raised in it ends the command by the error exit (R241). -/
def conclude (s : State) : Except Stop State → Result
  | .ok t => .next t
  | .error (.raise _) => .next (errorExit s)
  | .error (.fault f) => .fault f
  | .error (.refuse r) => .refused r

/-- The second instruction runs where the first one ended. -/
def andThen (r : Result) (f : State → Result) : Result :=
  match r with
  | .next t => f t
  | .fault e => .fault e
  | .refused e => .refused e

/-- A busy core stepped until it is not busy any more, at most `n` times. -/
def runBusy (f : State → Result) : Nat → State → Result
  | 0, s => .next s
  | n + 1, s =>
    match s.status with
    | .busy => andThen (f s) (runBusy f n)
    | .idle | .done => .next s

/-! ## Block copies -/

/-- Where the source byte of a copy is read: IN, or OUT as it stands at that moment (R205). -/
def sourceOf (inM : Memory) : Space → Memory → Memory
  | .input, _ => inM
  | .output, out => out

/-- The fault of reading a byte that was not lent. -/
def readFault : Space → Fault
  | .input => .inAddress
  | .output => .outAddress

/-- The required effect of WILDCOPY and BYTECOPY: `n` bytes, one at a time, ascending, each read at the moment it is
copied (R205, R206, R70). -/
def copyLoop (inM : Memory) (src : Space) : Nat → Nat → Nat → Memory → Except Fault Memory
  | 0, _, _, out => .ok out
  | n + 1, d, s, out =>
    match (sourceOf inM src out).byte? s with
    | none => .error (readFault src)
    | some b =>
      match out.set? d b with
      | none => .error .outAddress
      | some out => copyLoop inM src n (d + 1) (s + 1) out

/-- `E`, how far a WILDCOPY of `n` bytes may write (R205): `((n + 7) & ~7) + 8`. -/
def wildExtent (n : Nat) : Nat := (n + 7) / 8 * 8 + 8

/-- WILDCOPY into OUT (R205): the required effect, then the permitted overrun with unspecified values
(assumption 6). DESIGN CHOICE (assumption 30): the bounds R62 and R63 put on a command's copies are not tested; run by hand, it
uses every byte that was lent. -/
def wildcopyOp (src : Space) (d s n : Nat) (st : State) : Except Stop State :=
  match copyLoop st.inMem src n d s st.outMem with
  | .error f => .error (.fault f)
  | .ok out => .ok ((st.withOut out).clobber (d + n) (wildExtent n - n))

/-- BYTECOPY inside OUT (R206): no overrun. DESIGN CHOICE (assumption 30): run by hand, it uses every byte of OUT that was
lent, also beyond the slack (R63). -/
def bytecopyOp (d s n : Nat) (st : State) : Except Stop State :=
  match copyLoop st.inMem .output n d s st.outMem with
  | .error f => .error (.fault f)
  | .ok out => .ok (st.withOut out)

/-- Bytes written at the Encoder's output cursor, which moves behind them (R165, R166, R169). The Encoder tests no output
bound (R174). DESIGN CHOICE (assumption 30): run by hand, it writes every byte that was lent, also beyond the slack (R63). -/
def putBytes (bs : List Byte) (s : State) : Except Stop State :=
  match s.outMem.setBytes? s.encOp bs with
  | none => .error (.fault .outAddress)
  | some out => .ok ((s.withOut out).setEncOp (s.encOp + bs.length))

end Sys2Proof.Machine
end

