-- ==== Sys2Proof/Machine/Flags.lean ====
section
/-! DEFINITION. The core has no condition codes (10_state.md R27). What decides inside a command is the one bit "a match
survives", held as the value of `best_len`, and the tests of SUPPRESS and LAZY on it; what a command leaves is the code
of `STATUS`. -/

namespace Sys2Proof.Machine

/-- The codes of `STATUS` (R45). -/
def Status.code : Status → BitVec 2
  | .idle => 0
  | .busy => 1
  | .done => 2

/-- "A match survives" (R27): `best_len >= MIN_MATCH`. -/
def matchSurvives (s : State) : Bool := decide (4 ≤ s.bestN)

/-- The test of SUPPRESS (R163). -/
def suppressed (s : State) : Bool := decide (s.bestN = 4) && decide (135 ≤ s.runN)

/-- The test of LAZY (R164): level 9 and a valid match that does not reach the end of the input. -/
def challenged (s : State) : Bool :=
  decide (s.level = 9) && matchSurvives s && decide (s.pN + s.bestN < s.inN)

end Sys2Proof.Machine
end

