-- ==== Sys2Proof/Machine/Operands.lean ====
section
/-! DEFINITION. Operand forms: the command operands and the launch premises on them, the bytes and varints the Decoder
fetches, the distance field, the hash of a position. -/

namespace Sys2Proof.Machine

/-! ## Command operands (R42, R43, R44) and launch premises (R247) -/

/-- `max_chain` (R42, R137). DESIGN CHOICE (assumption 29): at `LEVEL` 0 and 10 to 15, which no launch admits, a search
run by hand takes what the same formula gives, a budget of 1 and of 131072. -/
def maxChain (level : BitVec 4) : Nat := if level.toNat < 8 then 1 <<< level.toNat else 131072

/-- `LEVEL` is 1 to 9 (R42). -/
def levelLegal (level : BitVec 4) : Bool := decide (1 ≤ level.toNat) && decide (level.toNat ≤ 9)

/-- IN with its pad and OUT with its slack share no byte (R76). -/
def disjointBuffers (s : State) : Bool :=
  decide (s.inBase + s.inN + 16 ≤ s.outBase) || decide (s.outBase + s.capN + 16 ≤ s.inBase)

/-- The premises both commands share: pad, slack, disjointness (R62, R63, R76). -/
def bufferRefusal (s : State) : Option Refusal :=
  if s.inMem.covers (s.inN + 16) = false then some .inPadAbsent
  else if s.outMem.covers (s.capN + 16) = false then some .outSlackAbsent
  else if disjointBuffers s = false then some .buffersOverlap
  else none

/-- The premise of a COMPRESS that does not hold, if any (R160, R247, R281). -/
def compressRefusal (s : State) : Option Refusal :=
  if s.status = .busy then some .startWhileBusy
  else if levelLegal s.level = false then some .levelIllegal
  else if 2139095024 < s.inN then some .inLenTooLarge
  else if 2147483631 < s.capN then some .outCapTooLarge
  else if s.capN < s.inN + s.inN / 255 + 16 then some .capacityTooSmall
  else bufferRefusal s

/-- The premise of a DECOMPRESS that does not hold, if any (R200, R247). -/
def decompressRefusal (s : State) : Option Refusal :=
  if s.status = .busy then some .startWhileBusy
  else if 2147483631 < s.inN then some .inLenTooLarge
  else if 2147483631 < s.capN then some .outCapTooLarge
  else bufferRefusal s

/-! ## Stream operands -/

/-- The stream that is left: `IN[ip .. in_len-1]` (R25, R90). -/
def streamRest (s : State) : Option (List Byte) := s.inMem.slice s.ipN (s.inN - s.ipN)

/-- FETCH (R202): the byte at `ip`, and `ip` moves on. -/
def fetchOp (s : State) : Except Stop (Byte × State) :=
  if s.inN ≤ s.ipN then .error (.raise .eField)
  else
    match s.inMem.byte? s.ipN with
    | none => .error (.fault .inAddress)
    | some b => .ok (b, s.setIp (s.ipN + 1))

/-- DECVAR from byte `i` on, at most `n` more bytes (R204). -/
def decvarLoop : Nat → Nat → Nat → State → Except Stop (Nat × State)
  | 0, _, x, s => .ok (x, s)
  | n + 1, i, x, s =>
    match fetchOp s with
    | .error e => .error e
    | .ok (c, s) =>
      if c.toNat < 128 then .ok (x + c.toNat <<< (7 * i), s)
      else decvarLoop n (i + 1) (x + c.toNat <<< (7 * i)) s

/-- DECVAR (R204). -/
def decvarOp (s : State) : Except Stop (Nat × State) := decvarLoop 5 0 0 s

/-- The distance of the token whose tag is in `tag`, its low 16 bits at `ip` (R99, R207). -/
def distAt (s : State) : Option (BitVec 17) :=
  match s.inMem.memRead s.ipN 2 with
  | none => none
  | some v => some (BitVec.ofNat 17 (tagDistHi s.dec.tag * 65536 + v))

/-! ## Hash of a position -/

/-- The hash of a 32-bit little-endian load: the top 18 bits of a wrapping product (R131). -/
def hashWord (w : Word) : BitVec 18 := ((w * 0x9E3779B9#32) >>> 14).setWidth 18

/-- HASH(x), where its four bytes exist (R131). -/
def hashAt (m : Memory) (x : Nat) : Option (BitVec 18) :=
  match m.memRead x 4 with
  | none => none
  | some w => some (hashWord (BitVec.ofNat 32 w))

end Sys2Proof.Machine
end

