-- ==== Sys2Proof/Machine/MatchFinder.lean ====
section
/-! DEFINITION. The Match Finder (40_match_finder.md): HASH, INSERT, FIND_MATCH, PROBE. -/

namespace Sys2Proof.Machine

/-- `IN[a] == IN[b]`. A byte that was not lent equals no byte (assumption 20). -/
def sameByte (m : Memory) (a b : Nat) : Bool :=
  match m.byte? a, m.byte? b with
  | some x, some y => decide (x = y)
  | _, _ => false

/-- `IN[a+k] == IN[b+k]` for every `k < n`. -/
def sameBytes (m : Memory) : Nat → Nat → Nat → Bool
  | _, _, 0 => true
  | a, b, n + 1 => sameByte m a b && sameBytes m (a + 1) (b + 1) n

/-- The extension loop of FIND_MATCH: `len` grows while the next bytes agree and `len < max_match` (R134). -/
def extend (m : Memory) (s p maxMatch : Nat) : Nat → Nat → Nat
  | 0, len => len
  | fuel + 1, len =>
    if len < maxMatch ∧ sameByte m (s + len) (p + len) = true then extend m s p maxMatch fuel (len + 1) else len

/-- What a FIND_MATCH walk carries from candidate to candidate (R134). -/
structure Walk where
  s       : Int
  chain   : Nat
  bestLen : Nat
  dist    : Int
  len     : Nat
deriving DecidableEq, Repr

/-- The successor of a candidate in its chain: `Tail[s & WINDOW_MASK]` (R134). -/
def chainNext (tail : Table) (s : Int) : Int := (tail.get (s.toNat % 131072)).toInt

/-- One candidate of FIND_MATCH: the speculative test, the prefix test, the extension, the record (R134). -/
def visit (m : Memory) (p maxMatch : Nat) (w : Walk) : Walk :=
  let s := w.s.toNat
  if sameByte m (s + w.bestLen) (p + w.bestLen) = true ∧ sameBytes m s p 4 = true then
    let len := extend m s p maxMatch (maxMatch - 4) 4
    if w.bestLen < len then { w with len := len, bestLen := len, dist := (p : Int) - w.s } else { w with len := len }
  else w

/-- The walk of FIND_MATCH, `chain` candidates at most (R134): it stops at a candidate at or below `limit`, at a match
of `max_match` bytes, or when the budget is used up. -/
def findWalk (m : Memory) (tail : Table) (p maxMatch : Nat) (limit : Int) : Nat → Walk → Walk
  | 0, w => w
  | chain + 1, w =>
    if limit < w.s then
      let v := visit m p maxMatch w
      if v.bestLen = maxMatch then v
      else if chain = 0 then { v with chain := 0 }
      else findWalk m tail p maxMatch limit chain { v with chain := chain, s := chainNext tail v.s }
    else w

/-- The walk of PROBE (R138): whether a candidate was hit, the last candidate, the budget left. -/
def probeWalk (m : Memory) (tail : Table) (x targetLen : Nat) (limit : Int) : Nat → Int → Bool × Int × Nat
  | 0, s => (false, s, 0)
  | chain + 1, s =>
    if limit < s then
      if sameBytes m s.toNat x targetLen then (true, s, chain + 1)
      else if chain = 0 then (false, s, 0)
      else probeWalk m tail x targetLen limit chain (chainNext tail s)
    else (false, s, chain + 1)

/-- `max(x - WINDOW_SIZE, NIL)`: candidates must exceed it (R134, R138). -/
def windowLimit (x : Nat) : Int := max ((x : Int) - 131072) (-1)

/-- FIND_MATCH's result (R134). -/
inductive Found where
  | noMatch
  | found (bestLen dist : Nat)
deriving DecidableEq, Repr

/-- FIND_MATCH(p) (R134): its result and the working registers it leaves. No register carries a value over from an earlier
search (R22): what the lines of R134 do not assign is a free value (assumption 28). Run by hand (assumption 30), `p` may be
any position of the input. -/
def findMatchOp (p : Nat) (s : State) : Except Stop (Found × State) :=
  if s.inN ≤ p then .error (.refuse .outsideDomain)
  else if s.inN - p < 4 then
    .ok (.noMatch, s.endSearch { State.freeMatchRegs s.draws with maxMatch := Word.ofNat (s.inN - p) })
  else
    match hashAt s.inMem p with
    | none => .error (.fault .inAddress)
    | some h =>
      let first := (s.head.get h.toNat).toInt
      let w := findWalk s.inMem s.tail p (s.inN - p) (windowLimit p) (maxChain s.level)
        { s := first, chain := maxChain s.level, bestLen := 3, dist := 0,
          len := (State.freeMatchRegs s.draws).len.toNat }
      let t := s.endSearch
        { h := h, s := Word.ofInt w.s, limit := Word.ofInt (windowLimit p), chain := Word.ofNat w.chain,
          bestLen := Word.ofNat w.bestLen, dist := Word.ofInt w.dist, len := Word.ofNat w.len,
          maxMatch := Word.ofNat (s.inN - p) }
      if 4 ≤ w.bestLen then .ok (.found w.bestLen (Word.ofInt w.dist).toNat, t) else .ok (.noMatch, t)

/-- What a PROBE begins with: `best_len` and `dist` are those FIND_MATCH found (R138, R164; assumption 19), no other register
carries a value over (R22). -/
def probeRegs (s : State) : MatchRegs :=
  { State.freeMatchRegs s.draws with bestLen := s.mf.bestLen, dist := s.mf.dist }

/-- PROBE(x, target_len) (R138): its truth value and the working registers it leaves. What the lines of R138 do not assign is a
free value (R22; assumption 28), but `best_len` and `dist` are kept (assumption 19). DESIGN CHOICE
(assumption 30): run by hand with an `x` other than `p+1` and `p+2` or a `target_len`
below 5, it follows the same pseudocode. -/
def probeOp (x targetLen : Nat) (s : State) : Except Stop (Bool × State) :=
  if s.inN < x + targetLen then .ok (false, s.endSearch (probeRegs s))
  else
    match hashAt s.inMem x with
    | none => .error (.fault .inAddress)
    | some h =>
      let r := probeWalk s.inMem s.tail x targetLen (windowLimit x) (maxChain s.level) (s.head.get h.toNat).toInt
      .ok (r.1, s.endSearch
        { probeRegs s with h := h, s := Word.ofInt r.2.1, limit := Word.ofInt (windowLimit x), chain := Word.ofNat r.2.2 })

/-- INSERT(q) (R132): the old head goes to `Tail`, then `q` becomes the head. -/
def insertOp (q : Nat) (s : State) : Except Stop State :=
  if s.inN ≤ q then .error (.refuse .outsideDomain)
  else
    match hashAt s.inMem q with
    | none => .error (.fault .inAddress)
    | some h =>
      .ok ((s.withTail (s.tail.set (q % 131072) (s.head.get h.toNat))).withHead (s.head.set h.toNat (Word.ofNat q)))

/-! ## The meanings -/

/-- HASH(x) (R131): its result is returned, nothing else changes. The load stays inside IN and its pad (R62). -/
def execHash (x : Nat) (s : State) : Result :=
  if s.inN + 16 < x + 4 then .refused .outsideDomain
  else
    match hashAt s.inMem x with
    | none => .fault .inAddress
    | some h => .next (s.withRet (.hash h))

/-- INSERT(q) (R132). -/
def execInsert (q : Nat) (s : State) : Result := conclude s (insertOp q s)

/-- FIND_MATCH(p) (R134). -/
def execFindMatch (p : Nat) (s : State) : Result :=
  conclude s
    (match findMatchOp p s with
    | .error e => .error e
    | .ok (.noMatch, t) => .ok (t.withRet .noMatch)
    | .ok (.found l d, t) => .ok (t.withRet (.found l d)))

/-- PROBE(x, target_len) (R138). -/
def execProbe (x targetLen : Nat) (s : State) : Result :=
  conclude s
    (match probeOp x targetLen s with
    | .error e => .error e
    | .ok (b, t) => .ok (t.withRet (.truth b)))

end Sys2Proof.Machine
end

