-- ==== Sys2Proof/Machine/Encoder.lean ====
section
/-! DEFINITION. The Encoder (41_encoder.md): the decision at one position, token emission, the insertions, and the two
varint conversions of 30_encoding.md as operations. -/

namespace Sys2Proof.Machine

/-! ## Shared parts -/

/-- START_COMPRESS (R161): `Head` all `NIL`, `p`, `run`, `op` zero; `Tail` is not touched. -/
def startCompressOp (s : State) : State := (s.withHead []).withEnc { p := 0, run := 0, op := 0 }

/-- `best_len <- 0`: the match is given up (R163, R164). -/
def dropMatch (s : State) : State := s.setBest 0

/-- SUPPRESS (R163). -/
def suppressOp (s : State) : State := if suppressed s then dropMatch s else s

/-- LAZY (R164): two probes against the `best_len` found at `p`, the second only if the first failed. -/
def lazyOp (s : State) : Except Stop State :=
  if challenged s then
    match probeOp (s.pN + 1) (s.bestN + 1) s with
    | .error e => .error e
    | .ok (true, t) => .ok (dropMatch t)
    | .ok (false, t) =>
      match probeOp (s.pN + 2) (s.bestN + 2) t with
      | .error e => .error e
      | .ok (true, u) => .ok (dropMatch u)
      | .ok (false, u) => .ok u
  else .ok s

/-- EMITVAR(x) (R166). DESIGN CHOICE (assumption 30): run by hand, it takes any `x`. -/
def emitvarOp (x : Nat) (s : State) : Except Stop State := putBytes (varintEnc x) s

/-- The pending literals `IN[p-run .. p-1]` copied behind the tag, `op` moved behind them (R165, R169, R170). -/
def literalCopy (s : State) : Except Stop State :=
  match wildcopyOp .input s.encOp (s.pN - s.runN) s.runN s with
  | .error e => .error e
  | .ok t => .ok (t.setEncOp (s.encOp + s.runN))

/-- The head of a token with `run` pending literals and the low tag bits given: tag, run varint, literals
(R165, R169). -/
def emitHead (distHi lenCode : Nat) (s : State) : Except Stop State :=
  if s.runN = 0 then putBytes [mkTag 0 distHi lenCode] s
  else
    match putBytes [mkTag (min s.runN 7) distHi lenCode] s with
    | .error e => .error e
    | .ok t =>
      match (if 7 ≤ s.runN then emitvarOp (s.runN - 7) t else .ok t) with
      | .error e => .error e
      | .ok t => literalCopy t

/-- EMIT_MATCH (R165). DESIGN CHOICE (assumption 30): run by hand, it takes a `p` beyond `in_len`. -/
def emitMatchOp (s : State) : Except Stop State :=
  if s.bestN < 4 ∨ s.distN = 0 ∨ 131071 < s.distN ∨ s.pN < s.runN then .error (.refuse .outsideDomain)
  else
    match emitHead (distHi (BitVec.ofNat 17 s.distN)) (min (s.bestN - 4) 15) s with
    | .error e => .error e
    | .ok t =>
      match (if 15 ≤ s.bestN - 4 then emitvarOp (s.bestN - 4 - 15) t else .ok t) with
      | .error e => .error e
      | .ok t => putBytes (dist16 (BitVec.ofNat 17 s.distN)) t

/-- INSERT of `n` positions from `q` on, increasing (R133, R167). -/
def insertRange : Nat → Nat → State → Except Stop State
  | 0, _, s => .ok s
  | n + 1, q, s =>
    match insertOp q s with
    | .error e => .error e
    | .ok t => insertRange n (q + 1) t

/-- ACCEPT (R167). DESIGN CHOICE (assumption 30): run by hand with a `best_len` below 4, it follows the same pseudocode. -/
def acceptOp (s : State) : Except Stop State :=
  match insertRange s.bestN s.pN s with
  | .error e => .error e
  | .ok t => .ok ((t.setP (s.pN + s.bestN)).setRun 0)

/-- LITERAL (R168). -/
def literalOp (s : State) : Except Stop State :=
  match insertOp s.pN s with
  | .error e => .error e
  | .ok t => .ok ((t.setRun (s.runN + 1)).setP (s.pN + 1))

/-- The search of DECIDE (R162): `best_len` and `dist` from the result, both 0 where there is none. -/
def searchOp (s : State) : Except Stop State :=
  match findMatchOp s.pN s with
  | .error e => .error e
  | .ok (.noMatch, t) => .ok (t.withMf { t.mf with bestLen := 0, dist := 0 })
  | .ok (.found l d, t) => .ok (t.withMf { t.mf with bestLen := Word.ofNat l, dist := Word.ofNat d })

/-- What DECIDE does with its decision (R162). -/
def commitOp (s : State) : Except Stop State :=
  if matchSurvives s then
    match emitMatchOp s with
    | .error e => .error e
    | .ok t => acceptOp t
  else literalOp s

/-- DECIDE at register `p` (R162): search, suppression, lookahead, then a match or a literal. -/
def decideOp (s : State) : Except Stop State :=
  match searchOp s with
  | .error e => .error e
  | .ok t =>
    match lazyOp (suppressOp t) with
    | .error e => .error e
    | .ok u => commitOp u

/-- EMIT_FINAL (R169). DESIGN CHOICE (assumption 30): run by hand where `p` is not `in_len`, it follows the same pseudocode. -/
def emitFinalOp (s : State) : Except Stop State :=
  if s.runN = 0 then .ok s
  else if s.pN < s.runN then .error (.refuse .outsideDomain)
  else emitHead 0 0 s

/-! ## The meanings -/

/-- START_COMPRESS (R161). -/
def execStartCompress (s : State) : Result := .next (startCompressOp s)

/-- DECIDE (R162). -/
def execDecidePos (s : State) : Result := conclude s (decideOp s)

/-- SUPPRESS (R163). -/
def execSuppress (s : State) : Result := .next (suppressOp s)

/-- LAZY (R164). -/
def execLazy (s : State) : Result := conclude s (lazyOp s)

/-- EMIT_MATCH (R165). -/
def execEmitMatch (s : State) : Result := conclude s (emitMatchOp s)

/-- EMITVAR(x) (R166). -/
def execEmitvar (x : Nat) (s : State) : Result := conclude s (emitvarOp x s)

/-- ACCEPT (R167). -/
def execAccept (s : State) : Result := conclude s (acceptOp s)

/-- LITERAL (R168). -/
def execLiteral (s : State) : Result := conclude s (literalOp s)

/-- EMIT_FINAL (R169). -/
def execEmitFinal (s : State) : Result := conclude s (emitFinalOp s)

/-- VARINT_ENC(x) (R95): its bytes are returned, nothing else changes. -/
def execVarintEnc (x : Nat) (s : State) : Result := .next (s.withRet (.bytes (varintEnc x)))

end Sys2Proof.Machine
end

