-- ==== Sys2Proof/Machine/Decoder.lean ====
section
/-! DEFINITION. The Decoder's phases (42_decoder.md) as the control invokes them: FETCH, DECVAR, LITPHASE, MATCHPHASE,
MATCHCOPY and the two block copies. Every `raise` of these rules is the error exit (R241), a next state. -/

namespace Sys2Proof.Machine

/-! ## Shared parts -/

/-- The checks of a literal run (R203): output first, then input. -/
def checkRun (run : Nat) (s : State) : Except Stop Unit :=
  if s.capN < s.decOp + run then .error (.raise .eOut)
  else if s.inN < s.ipN + run then .error (.raise .eIn)
  else .ok ()

/-- Both cursors move behind a literal run (R203). -/
def advanceRun (run : Nat) (s : State) : State := (s.setDecOp (s.decOp + run)).setIp (s.ipN + run)

/-- A literal run whose length is known (R203): the checks, WILDCOPY from IN, both cursors. -/
def litphaseTail (run : Nat) (s : State) : Except Stop State :=
  match checkRun run s with
  | .error e => .error e
  | .ok () =>
    match wildcopyOp .input s.decOp s.ipN run s with
    | .error e => .error e
    | .ok t => .ok (advanceRun run t)

/-- LITPHASE (R203). It assigns neither `len` nor `dist`: they keep their values (assumption 31). -/
def litphaseOp (s : State) : Except Stop State :=
  if s.dec.tag.toNat < 32 then .error (.refuse .outsideDomain)
  else if tagRunCode s.dec.tag = 7 then
    match decvarOp s with
    | .error e => .error e
    | .ok (x, t) => litphaseTail (7 + x) (t.setDecRun (7 + x))
  else litphaseTail (tagRunCode s.dec.tag) (s.setDecRun (tagRunCode s.dec.tag))

/-- MATCHCOPY(len, dist) (R208), `op >= dist` established. Distance 0 is the parameter `DIST0`. DESIGN CHOICE
(assumption 30): a `len` below 4, which no token carries, is copied like any other, and so are bytes beyond the
capacity and the slack, where they were lent. -/
def matchcopyOp (len : Nat) (dist : BitVec 17) (s : State) : Except Stop State :=
  if s.decOp < dist.toNat then .error (.refuse .outsideDomain)
  else if 4 ≤ dist.toNat then wildcopyOp .output s.decOp (s.decOp - dist.toNat) len s
  else if 1 ≤ dist.toNat then bytecopyOp s.decOp (s.decOp - dist.toNat) len s
  else
    match s.dist0 with
    | .selfcopy => .ok (s.clobber s.decOp len)
    | .error => .error (.raise .eDist0)

/-- The checks before the distance field (R207): the length against the capacity, then two bytes left. -/
def checkMatch (len : Nat) (s : State) : Except Stop Unit :=
  if s.capN < s.decOp + len then .error (.raise .eOut)
  else if s.inN < s.ipN + 2 then .error (.raise .eField)
  else .ok ()

/-- The end of a match phase, the distance read (R207): `ip` behind the field, the range test, MATCHCOPY, `op`. -/
def matchTail (len : Nat) (dist : BitVec 17) (s : State) : Except Stop State :=
  let t := (s.setIp (s.ipN + 2)).setDecDist dist
  if t.decOp < dist.toNat then .error (.raise .eDist)
  else
    match matchcopyOp len dist t with
    | .error e => .error e
    | .ok u => .ok (u.setDecOp (t.decOp + len))

/-- A match phase whose length is known (R207). -/
def matchphaseTail (len : Nat) (s : State) : Except Stop State :=
  match checkMatch len s with
  | .error e => .error e
  | .ok () =>
    match distAt s with
    | none => .error (.fault .inAddress)
    | some dist => matchTail len dist s

/-- MATCHPHASE (R207). It does not assign `run`, which keeps its value (assumption 31). -/
def matchphaseOp (s : State) : Except Stop State :=
  if tagLenCode s.dec.tag = 15 then
    match decvarOp s with
    | .error e => .error e
    | .ok (x, t) => matchphaseTail (19 + x) (t.setDecLen (19 + x))
  else matchphaseTail (shortMatchLen (tagLenCode s.dec.tag)) (s.setDecLen (shortMatchLen (tagLenCode s.dec.tag)))

/-! ## The meanings -/

/-- FETCH (R202): the byte is returned. -/
def execFetch (s : State) : Result :=
  conclude s
    (match fetchOp s with
    | .error e => .error e
    | .ok (b, t) => .ok (t.withRet (.byte b)))

/-- DECVAR (R204): the integer is returned. -/
def execDecvar (s : State) : Result :=
  conclude s
    (match decvarOp s with
    | .error e => .error e
    | .ok (x, t) => .ok (t.withRet (.value x)))

/-- VARINT_DEC over given bytes (R96): the integer is returned. Where they end inside the varint, the fetch of the next
one raises E_FIELD (R202). -/
def execVarintDec (bytes : List Byte) (s : State) : Result :=
  conclude s
    (match varintDec bytes with
    | none => .error (.raise .eField)
    | some (x, _) => .ok (s.withRet (.value x)))

/-- LITPHASE (R203). -/
def execLitphase (s : State) : Result := conclude s (litphaseOp s)

/-- MATCHPHASE (R207). -/
def execMatchphase (s : State) : Result := conclude s (matchphaseOp s)

/-- MATCHCOPY(len, dist) (R208). -/
def execMatchcopy (len : Nat) (dist : BitVec 17) (s : State) : Result := conclude s (matchcopyOp len dist s)

/-- WILDCOPY (R205): only into OUT (R9, R205), and inside OUT only with `d - s >= 4`. DESIGN CHOICE (assumption 30):
`n = 0` copies nothing and has the permitted overrun of 8 bytes; a source beyond the pad and a destination beyond the slack
(R62, R63) are used where they were lent. -/
def execWildcopy (dspace : Space) (d : Nat) (sspace : Space) (src n : Nat) (s : State) : Result :=
  if dspace = .input then .refused .outsideDomain
  else if sspace = .output ∧ d < src + 4 then .refused .outsideDomain
  else conclude s (wildcopyOp sspace d src n s)

/-- BYTECOPY(d, s, n) (R206). DESIGN CHOICE (assumption 30): `n = 0` copies nothing, and a `d - s` outside 1 to 3 is copied
by the same loop. -/
def execBytecopy (d src n : Nat) (s : State) : Result := conclude s (bytecopyOp d src n s)

end Sys2Proof.Machine
end

