-- ==== Sys2Proof/Machine/Tokens.lean ====
section
/-! DEFINITION. The eight token forms (42_decoder.md R220 to R227) as instructions: the token is already decoded, its
operands are its fields. The checks, the copies and the cursor moves are those of LITPHASE and MATCHPHASE
(R203, R207). The test that ends the loop (R201) is the core's next step (assumption 22). Every token
derives `tag`, `run`, `len` and `dist` anew (R23): `run` is 0 in an M token, `len` and `dist` are free values in an L token, which
has no such fields (assumption 31). DESIGN CHOICE (assumption 30): run by hand, a token form does not test where the stream
ends, which tells L from LM (R93). -/

namespace Sys2Proof.Machine

/-! ## Shared parts -/

/-- The tag byte consumed (R202): `ip` moves on, the token begins (R23). -/
def takeTag (tag : Byte) (s : State) : State := (s.setIp (s.ipN + 1)).beginToken tag

/-- Varint bytes consumed (R204). -/
def skipVar (x : Nat) (s : State) : State := s.setIp (s.ipN + vlen x)

/-- The literal phase of a token (R203): the checks, the literals into OUT as WILDCOPY puts them (R205), both
cursors. `len` and `dist` stay as the token's beginning left them. -/
def tokenLits (lits : List Byte) (s : State) : Except Stop State :=
  let t := s.setDecRun lits.length
  match checkRun lits.length t with
  | .error e => .error e
  | .ok () =>
    match t.outMem.setBytes? t.decOp lits with
    | none => .error (.fault .outAddress)
    | some out =>
      .ok (advanceRun lits.length
        ((t.withOut out).clobber (t.decOp + lits.length) (wildExtent lits.length - lits.length)))

/-- The match phase of a token behind its length field (R207). `run` stays as it is. -/
def tokenMatch (len : Nat) (dist : BitVec 17) (s : State) : Except Stop State :=
  let t := s.setDecLen len
  match checkMatch len t with
  | .error e => .error e
  | .ok () => matchTail len dist t

/-- A match with a short length field. -/
def shortMatch (lenCode : BitVec 4) (dist : BitVec 17) (s : State) : Except Stop State :=
  tokenMatch (shortMatchLen lenCode) dist s

/-- A match with an extended length field. -/
def longMatch (lenVar : Nat) (dist : BitVec 17) (s : State) : Except Stop State :=
  tokenMatch (longMatchLen lenVar) dist (skipVar lenVar s)

/-- A literal run of 1 to 6 bytes. -/
def shortLits (lits : List Byte) (s : State) : Except Stop State := tokenLits lits s

/-- A literal run of 7 or more bytes, its varint consumed first. -/
def longLits (lits : List Byte) (s : State) : Except Stop State := tokenLits lits (skipVar (lits.length - 7) s)

/-- Two phases one after the other. -/
def phases (r : Except Stop State) (f : State → Except Stop State) : Except Stop State :=
  match r with
  | .error e => .error e
  | .ok t => f t

/-! ## The meanings -/

/-- M.S (R220). -/
def execMS (lenCode : BitVec 4) (dist : BitVec 17) (s : State) : Result :=
  conclude s (shortMatch lenCode dist (takeTag (mkTag 0 (distHi dist) lenCode.toNat) s))

/-- M.X (R221). -/
def execMX (lenVar : Nat) (dist : BitVec 17) (s : State) : Result :=
  conclude s (longMatch lenVar dist (takeTag (mkTag 0 (distHi dist) 15) s))

/-- LM.SS (R222). Run by hand where the stream ends behind its literals, it stays an LM token and raises E_FIELD
(assumption 30); so do the other three LM forms. -/
def execLmSS (lits : List Byte) (lenCode : BitVec 4) (dist : BitVec 17) (s : State) : Result :=
  conclude s (phases (shortLits lits (takeTag (mkTag lits.length (distHi dist) lenCode.toNat) s))
    (shortMatch lenCode dist))

/-- LM.SX (R223). -/
def execLmSX (lits : List Byte) (lenVar : Nat) (dist : BitVec 17) (s : State) : Result :=
  conclude s (phases (shortLits lits (takeTag (mkTag lits.length (distHi dist) 15) s)) (longMatch lenVar dist))

/-- LM.XS (R224). -/
def execLmXS (lits : List Byte) (lenCode : BitVec 4) (dist : BitVec 17) (s : State) : Result :=
  conclude s (phases (longLits lits (takeTag (mkTag 7 (distHi dist) lenCode.toNat) s)) (shortMatch lenCode dist))

/-- LM.XX (R225). -/
def execLmXX (lits : List Byte) (lenVar : Nat) (dist : BitVec 17) (s : State) : Result :=
  conclude s (phases (longLits lits (takeTag (mkTag 7 (distHi dist) 15) s)) (longMatch lenVar dist))

/-- L.S (R226). DESIGN CHOICE (assumption 30): run by hand where bytes are left behind its literals, it stays an L token. -/
def execLS (low : BitVec 5) (lits : List Byte) (s : State) : Result :=
  conclude s (shortLits lits (takeTag (mkTag lits.length 0 low.toNat) s))

/-- L.X (R227). DESIGN CHOICE (assumption 30): as for L.S. -/
def execLX (low : BitVec 5) (lits : List Byte) (s : State) : Result :=
  conclude s (longLits lits (takeTag (mkTag 7 0 low.toNat) s))

/-- The meaning of a fetched token; the decoder yields no other instruction. -/
def execToken (i : Instr) (s : State) : Result :=
  match i with
  | .mX lenVar dist => execMX lenVar dist s
  | .mS lenCode dist => execMS lenCode dist s
  | .lmXX lits lenVar dist => execLmXX lits lenVar dist s
  | .lmXS lits lenCode dist => execLmXS lits lenCode dist s
  | .lmSX lits lenVar dist => execLmSX lits lenVar dist s
  | .lmSS lits lenCode dist => execLmSS lits lenCode dist s
  | .lX low lits => execLX low lits s
  | .lS low lits => execLS low lits s
  | .compress | .decompress | .hash .. | .insert .. | .findMatch .. | .probe .. | .startCompress | .decidePos
  | .suppress | .lazy | .emitMatch | .emitvar .. | .accept | .literal | .emitFinal | .varintEnc .. | .varintDec ..
  | .fetch | .decvar | .litphase | .matchphase | .matchcopy .. | .wildcopy .. | .bytecopy .. => .refused .notAToken

end Sys2Proof.Machine
end

