-- ==== Sys2Proof/Machine/Commands.lean ====
section
/-! DEFINITION. The two host commands (R160, R200): the launch, the steps of the busy core, and the whole command as one
transition (R45, R71). -/

namespace Sys2Proof.Machine

/-! ## Launch -/

/-- The state at the start of COMPRESS (R161, R271). The Match Finder's registers hold nothing yet
(R22; assumption 31). -/
def launchCompress (s : State) : State := ((startCompressOp s.forgetEnc).forgetResult).withStatus .busy

/-- The state at the start of DECOMPRESS (R201, R272). `tag`, `run`, `len` and `dist` hold nothing yet (R23;
assumption 31). -/
def launchDecompress (s : State) : State := (((s.forgetDec.setIp 0).setDecOp 0).forgetResult).withStatus .busy

/-- START with the command in `CMD`, the launch alone. -/
def launch (s : State) : Result :=
  if s.cmd = 0 then
    match compressRefusal s with
    | some r => .refused r
    | none => .next (launchCompress s)
  else
    match decompressRefusal s with
    | some r => .refused r
    | none => .next (launchDecompress s)

/-! ## Steps of the busy core -/

/-- One step of a running COMPRESS (R160): DECIDE while `p < in_len`, then EMIT_FINAL and the end. -/
def encoderStep (s : State) : Result :=
  if s.pN < s.inN then execDecidePos s
  else andThen (execEmitFinal s) fun t => .next (finishCompress t)

/-- The end of the Decoder's loop (R201, R210): E_TRAIL cannot happen where `ip <= in_len`. -/
def loopExit (s : State) : Result :=
  if s.ipN = s.inN then .next (finishDecompress s) else conclude s (.error (.raise .eTrail))

/-- The cause of the error exit where the stream holds no whole token (R202, R203). -/
def rejectCause : Reject → Cause
  | .noToken => .eField
  | .fieldMissing => .eField
  | .literalsMissing => .eIn

/-- One step of a running DECOMPRESS (R201): the token at `ip`, or the end of the loop. -/
def decoderStep (s : State) : Result :=
  if s.ipN < s.inN then
    match streamRest s with
    | none => .fault .inAddress
    | some bs =>
      match decode bs with
      | .error e => conclude s (.error (.raise (rejectCause e)))
      | .ok (i, _) => execToken i s
  else loopExit s

/-- One step of the busy core. -/
def busyStep (s : State) : Result := if s.cmd = 0 then encoderStep s else decoderStep s

/-! ## The meanings -/

/-- COMPRESS (R160): refused where a launch premise fails (R247), else run to completion. -/
def execCompress (s : State) : Result :=
  match compressRefusal s with
  | some r => .refused r
  | none => runBusy encoderStep (s.inN + 1) (launchCompress s)

/-- DECOMPRESS (R200): refused where a launch premise fails (R247), else run to completion. -/
def execDecompress (s : State) : Result :=
  match decompressRefusal s with
  | some r => .refused r
  | none => runBusy decoderStep (s.inN + 1) (launchDecompress s)

end Sys2Proof.Machine
end

