-- ==== Sys2Proof/Machine/Dispatch.lean ====
section
/-! DEFINITION. Which meaning each instruction has. -/

namespace Sys2Proof.Machine

def exec (i : Instr) (s : State) : Host.Outcome State Fault Refusal :=
  match i with
  | .compress => Sys2Proof.Machine.execCompress s
  | .decompress => Sys2Proof.Machine.execDecompress s
  | .mX lenVar dist => Sys2Proof.Machine.execMX lenVar dist s
  | .mS lenCode dist => Sys2Proof.Machine.execMS lenCode dist s
  | .lmXX lits lenVar dist => Sys2Proof.Machine.execLmXX lits lenVar dist s
  | .lmXS lits lenCode dist => Sys2Proof.Machine.execLmXS lits lenCode dist s
  | .lmSX lits lenVar dist => Sys2Proof.Machine.execLmSX lits lenVar dist s
  | .lmSS lits lenCode dist => Sys2Proof.Machine.execLmSS lits lenCode dist s
  | .lX low lits => Sys2Proof.Machine.execLX low lits s
  | .lS low lits => Sys2Proof.Machine.execLS low lits s
  | .hash x => Sys2Proof.Machine.execHash x s
  | .insert q => Sys2Proof.Machine.execInsert q s
  | .findMatch p => Sys2Proof.Machine.execFindMatch p s
  | .probe x targetLen => Sys2Proof.Machine.execProbe x targetLen s
  | .startCompress => Sys2Proof.Machine.execStartCompress s
  | .decidePos => Sys2Proof.Machine.execDecidePos s
  | .suppress => Sys2Proof.Machine.execSuppress s
  | .lazy => Sys2Proof.Machine.execLazy s
  | .emitMatch => Sys2Proof.Machine.execEmitMatch s
  | .emitvar x => Sys2Proof.Machine.execEmitvar x s
  | .accept => Sys2Proof.Machine.execAccept s
  | .literal => Sys2Proof.Machine.execLiteral s
  | .emitFinal => Sys2Proof.Machine.execEmitFinal s
  | .varintEnc x => Sys2Proof.Machine.execVarintEnc x s
  | .varintDec bytes => Sys2Proof.Machine.execVarintDec bytes s
  | .fetch => Sys2Proof.Machine.execFetch s
  | .decvar => Sys2Proof.Machine.execDecvar s
  | .litphase => Sys2Proof.Machine.execLitphase s
  | .matchphase => Sys2Proof.Machine.execMatchphase s
  | .matchcopy len dist => Sys2Proof.Machine.execMatchcopy len dist s
  | .wildcopy dspace d sspace src n => Sys2Proof.Machine.execWildcopy dspace d sspace src n s
  | .bytecopy d src n => Sys2Proof.Machine.execBytecopy d src n s

end Sys2Proof.Machine
end

