-- ==== Sys2Proof/Machine/HostPort.lean ====
section
/-! DEFINITION. The host's moves (R40 to R46, R280), taken while the core is not busy, and the placing of a table word
where the machine takes its next instruction. -/

namespace Sys2Proof.Machine

/-- A host store into a lent memory. -/
def hostStore (m : Memory) (addr : Nat) (bytes : List Byte) (f : Fault) (put : Memory → State) : Result :=
  match m.setBytes? addr bytes with
  | none => .fault f
  | some m => .next (put m)

/-- One host move but START; the move is already taken off the list. -/
def hostMove (m : HostMove) (s : State) : Result :=
  match m with
  | .writeCmd v => .next { s with cmd := v }
  | .writeLevel v => .next { s with level := v }
  | .writeInLen v => .next { s with inLen := v }
  | .writeOutCap v => .next { s with outCap := v }
  | .lendIn base bytes => .next { s with inBase := base, inMem := Memory.ofBytes 0 bytes }
  | .lendOut base bytes => .next { s with outBase := base, outMem := Memory.ofBytes 0 bytes }
  | .storeIn addr bytes => hostStore s.inMem addr bytes .inAddress fun m => { s with inMem := m }
  | .storeOut addr bytes => hostStore s.outMem addr bytes .outAddress fun m => { s with outMem := m }
  | .start => .next s
  | .startStepped => launch s

/-- The bytes a placed word may produce: enough for every token `tableStream` can hold with zero operands. -/
def placedCap : Nat := 64

/-- A command word placed: `CMD` selects it, its launch premises hold on an empty input, and START is the host's next
move (assumption 15). -/
def placeCommand (s : State) (w : Nat) : State :=
  { s with
    cmd := BitVec.ofNat 1 w, level := 1, inLen := 0, outCap := 16, status := .idle, inBase := 0, outBase := 16,
    inMem := Memory.ofBytes 0 (List.replicate 16 0), outMem := Memory.ofBytes 0 (List.replicate 32 0),
    host := [.start] }

/-- A token word placed: a running DECOMPRESS at the start of a stream that begins with it (assumption 15). -/
def placeToken (s : State) (nbits w : Nat) : State :=
  { s with
    cmd := 1, status := .busy, inLen := Word.ofNat (tableStreamLength nbits), outCap := Word.ofNat placedCap,
    dec := { s.dec with ip := 0, op := 0 }, inBase := 0, outBase := tableStreamLength nbits + 16,
    inMem := Memory.ofBytes 0 (tableStream nbits w ++ List.replicate 16 0),
    outMem := Memory.ofBytes 0 (List.replicate (placedCap + 16) 0) }

/-- A word of the opcode table placed where the next step takes its instruction. -/
def placeWord (s : State) (nbits w : Nat) : State :=
  if isCommandWord nbits w then placeCommand s w else placeToken s nbits w

end Sys2Proof.Machine
end

