-- ==== Sys2Proof/Machine/Step.lean ====
section
/-! DEFINITION. One step of the machine. A busy core runs its command on: one token at `ip` (R201) or one DECIDE (R162),
or the end of the command. A core that is not busy takes the host's next move; START runs the instruction that `CMD`
selects, whole (R45, R71). With no move pending it waits. -/

namespace Sys2Proof.Machine

def step (s : State) : Host.Outcome State Fault Refusal :=
  match s.status with
  | .busy => busyStep s
  | .idle | .done =>
    match s.host with
    | [] => .next s
    | .start :: rest => exec (decodeCmd s.cmd) (s.withHost rest)
    | m :: rest => hostMove m (s.withHost rest)

/-- `s` with a word of the opcode table where the next step takes its instruction. -/
def State.withFetchWord (s : State) (nbits w : Nat) : State := placeWord s nbits w

end Sys2Proof.Machine
end

