-- ==== Sys2Proof/Safety.lean ====
section
/-! DEFINITION. The terms claims are stated in: launch premises, the invariants of the spec, what a search means without
its loop, and frames. Nothing here is run by the machine. -/

namespace Sys2Proof.Safety

open Sys2Proof.Machine

/-! ## Launch premises (60_exceptions.md R247) -/

/-- Pad, slack and disjointness (R62, R63, R76). -/
def BuffersReady (s : State) : Prop :=
  s.inMem.covers (s.inN + 16) = true ∧ s.outMem.covers (s.capN + 16) = true ∧
    (s.inBase + s.inN + 16 ≤ s.outBase ∨ s.outBase + s.capN + 16 ≤ s.inBase)

/-- The operand premises of COMPRESS (R42, R43, R44, R281). -/
def CompressOperands (s : State) : Prop :=
  1 ≤ s.level.toNat ∧ s.level.toNat ≤ 9 ∧ s.inN ≤ 2139095024 ∧ s.capN ≤ 2147483631 ∧
    s.inN + s.inN / 255 + 16 ≤ s.capN

/-- The operand premises of DECOMPRESS (R43, R44). -/
def DecompressOperands (s : State) : Prop := s.inN ≤ 2147483631 ∧ s.capN ≤ 2147483631

/-- A COMPRESS may be started (R160, R280). -/
def CompressReady (s : State) : Prop := s.status ≠ .busy ∧ CompressOperands s ∧ BuffersReady s

/-- A DECOMPRESS may be started (R200, R280). -/
def DecompressReady (s : State) : Prop := s.status ≠ .busy ∧ DecompressOperands s ∧ BuffersReady s

/-! ## Invariants -/

/-- Memories and tables are in canonical form. -/
structure DataWf (s : State) : Prop where
  inMem  : s.inMem.wf = true
  outMem : s.outMem.wf = true
  head   : s.head.wf 262144 = true
  tail   : s.tail.wf 131072 = true

/-- Every table entry a walk may read is an earlier position (the part of R32 and R33 that safety needs). -/
structure TablesBelow (s : State) : Prop where
  head : ∀ h : Nat, (s.head.get h).toInt < s.pN
  tail : ∀ q : Nat, q < s.pN → s.pN ≤ q + 131072 → (s.tail.get (q % 131072)).toInt < q

/-- A running COMPRESS between two decisions (R21, R26, R173). -/
structure EncoderInv (s : State) : Prop where
  operands : CompressOperands s
  buffers  : BuffersReady s
  tables   : TablesBelow s
  pos      : s.pN ≤ s.inN
  run      : s.runN ≤ s.pN
  out      : s.encOp ≤ (s.pN - s.runN) + (s.pN - s.runN) / 16519

/-- A running DECOMPRESS at a token boundary (R214). -/
structure DecoderInv (s : State) : Prop where
  operands : DecompressOperands s
  buffers  : BuffersReady s
  ip       : s.ipN ≤ s.inN
  op       : s.decOp ≤ s.capN

/-- The invariant of the machine. -/
structure Inv (s : State) : Prop where
  data    : DataWf s
  encoder : s.status = .busy → s.cmd = 0 → EncoderInv s
  decoder : s.status = .busy → s.cmd = 1 → DecoderInv s

/-- R32: `Head[h]` is the greatest inserted position with hash `h`; the `Tail` entry of an inserted position in the
window is the greatest earlier one with the same hash; `NIL` where there is none; `Tail` slots of no such position
hold what they held before the command (`tail0`). -/
structure TableInvariant (tail0 : Table) (s : State) : Prop where
  headGreatest : ∀ (h : BitVec 18) (q : Nat), q < s.pN → hashAt s.inMem q = some h → (q : Int) ≤ (s.head.get h.toNat).toInt
  headIs : ∀ h : BitVec 18, s.head.get h.toNat = Config.NIL ∨
    ∃ q, q < s.pN ∧ hashAt s.inMem q = some h ∧ s.head.get h.toNat = Word.ofNat q
  tailGreatest : ∀ q q' : Nat, q < s.pN → s.pN ≤ q + 131072 → q' < q → hashAt s.inMem q' = hashAt s.inMem q →
    (q' : Int) ≤ (s.tail.get (q % 131072)).toInt
  tailIs : ∀ q : Nat, q < s.pN → s.pN ≤ q + 131072 → s.tail.get (q % 131072) = Config.NIL ∨
    ∃ q', q' < q ∧ hashAt s.inMem q' = hashAt s.inMem q ∧ s.tail.get (q % 131072) = Word.ofNat q'
  tailKept : ∀ k : Nat, k < 131072 → s.pN ≤ k → s.tail.get k = tail0.get k

/-! ## Searches without their loop (40_match_finder.md R135, R136, R139) -/

/-- The candidates of a search at `x` while exactly the positions below `p` are inserted: those with the hash of `x`
inside the window, nearest first, cut to the budget (R135, R136). -/
def candidates (m : Memory) (p x budget : Nat) : List Nat :=
  ((List.range p).reverse.filter fun q => decide (hashAt m q = hashAt m x) && decide (x < q + 131072)).take budget

/-- `IN[a .. a+n-1] = IN[b .. b+n-1]`, all of these bytes existing. -/
def Agree (m : Memory) (a b n : Nat) : Prop := ∀ k, k < n → ∃ v, m.byte? (a + k) = some v ∧ m.byte? (b + k) = some v

/-! ## Frames -/

/-- The parts of the state a frame speaks of. -/
inductive Part where
  | head
  | tail
  | enc
  | mf
  | dec
  | cmd
  | level
  | inLen
  | outCap
  | status
  | result
  | inMem
  | outMem
  | bases
  | dist0
  | host
  | draws
  | ret
deriving DecidableEq, Repr

/-- A part is the same in both states. -/
def Part.Same : Part → State → State → Prop
  | .head, s, t => t.head = s.head
  | .tail, s, t => t.tail = s.tail
  | .enc, s, t => t.enc = s.enc
  | .mf, s, t => t.mf = s.mf
  | .dec, s, t => t.dec = s.dec
  | .cmd, s, t => t.cmd = s.cmd
  | .level, s, t => t.level = s.level
  | .inLen, s, t => t.inLen = s.inLen
  | .outCap, s, t => t.outCap = s.outCap
  | .status, s, t => t.status = s.status
  | .result, s, t => t.result = s.result
  | .inMem, s, t => t.inMem = s.inMem
  | .outMem, s, t => t.outMem = s.outMem
  | .bases, s, t => t.inBase = s.inBase ∧ t.outBase = s.outBase
  | .dist0, s, t => t.dist0 = s.dist0
  | .host, s, t => t.host = s.host
  | .draws, s, t => t.draws = s.draws
  | .ret, s, t => t.ret = s.ret

/-- Nothing but the named parts differs. -/
def SameBut (parts : List Part) (s t : State) : Prop := ∀ part, part ∉ parts → part.Same s t

/-- OUT outside `[lo, hi)` reads as before. -/
def OutSameOutside (lo hi : Nat) (s t : State) : Prop :=
  ∀ a, a < lo ∨ hi ≤ a → t.outMem.byte? a = s.outMem.byte? a

/-- The bytes of OUT from `a` on are `bs`. -/
def OutHolds (t : State) (a : Nat) (bs : List Byte) : Prop := t.outMem.slice a bs.length = some bs

/-- `IN[0 .. n-1]` of both states agree. -/
def SameInput (s t : State) (n : Nat) : Prop := ∀ a, a < n → s.inMem.byte? a = t.inMem.byte? a

/-! ## Shapes of outcomes -/

/-- The answer is the Decoder's error exit (R241) with what it leaves alone (R244). -/
def EndsInError (s : State) (r : Result) : Prop :=
  ∃ t, r = .next t ∧ t.result = 0xFFFFFFFF#32 ∧ t.status = .done ∧
    SameBut [.outMem, .dec, .draws, .result, .status] s t ∧
    ∀ a, s.capN + 15 ≤ a → t.outMem.byte? a = s.outMem.byte? a

/-- Instructions run one after another. -/
def inOrder : List Instr → State → Result
  | [], s => .next s
  | i :: rest, s => andThen (exec i s) (inOrder rest)

/-- PROBE(x, n) answers true in `s` (R138). -/
def ProbeHits (s : State) (x n : Nat) : Prop := ∃ u, exec (.probe x n) s = .next u ∧ u.ret = .truth true

/-! ## Operands of the Decoder's phases (R94, R98, R203, R207) -/

/-- The run of the tag in register `tag`, its varint behind `ip` where there is one, and the cursor behind that. -/
def RunField (s : State) (run ip : Nat) : Prop :=
  (tagRunCode s.dec.tag ≠ 7 ∧ run = tagRunCode s.dec.tag ∧ ip = s.ipN) ∨
  (tagRunCode s.dec.tag = 7 ∧ ∃ bs x rest, streamRest s = some bs ∧ varintDec bs = some (x, rest) ∧ run = 7 + x ∧
    ip + rest.length = s.inN)

/-- The stream ends inside the run varint. -/
def RunFieldMissing (s : State) : Prop :=
  tagRunCode s.dec.tag = 7 ∧ ∃ bs, streamRest s = some bs ∧ varintDec bs = none

/-- The match length of the tag in register `tag`, its varint behind `ip` where there is one, and the cursor behind
that. -/
def LenField (s : State) (len ip : Nat) : Prop :=
  (tagLenCode s.dec.tag ≠ 15 ∧ len = (tagLenCode s.dec.tag).toNat + 4 ∧ ip = s.ipN) ∨
  (tagLenCode s.dec.tag = 15 ∧ ∃ bs x rest, streamRest s = some bs ∧ varintDec bs = some (x, rest) ∧ len = 19 + x ∧
    ip + rest.length = s.inN)

/-- The stream ends inside the length varint. -/
def LenFieldMissing (s : State) : Prop :=
  tagLenCode s.dec.tag = 15 ∧ ∃ bs, streamRest s = some bs ∧ varintDec bs = none

/-- How many bytes from its destination a match copy may write (R205, R206, R208). -/
def matchExtent (len dist : Nat) : Nat := if 4 ≤ dist then (len + 7) / 8 * 8 + 8 else len

/-! ## Operands of the token forms -/

/-- The literal bytes of a token. -/
def lits : Instr → List Byte
  | .lmXX l .. => l
  | .lmXS l .. => l
  | .lmSX l .. => l
  | .lmSS l .. => l
  | .lX _ l => l
  | .lS _ l => l
  | .mX .. | .mS .. => []
  | .compress | .decompress | .hash .. | .insert .. | .findMatch .. | .probe .. | .startCompress | .decidePos
  | .suppress | .lazy | .emitMatch | .emitvar .. | .accept | .literal | .emitFinal | .varintEnc .. | .varintDec ..
  | .fetch | .decvar | .litphase | .matchphase | .matchcopy .. | .wildcopy .. | .bytecopy .. => []

/-- The match length of a token, 0 where it carries no match (R98). -/
def matchLen : Instr → Nat
  | .mX x _ => 19 + x
  | .mS c _ => c.toNat + 4
  | .lmXX _ x _ => 19 + x
  | .lmXS _ c _ => c.toNat + 4
  | .lmSX _ x _ => 19 + x
  | .lmSS _ c _ => c.toNat + 4
  | .lX .. | .lS .. => 0
  | .compress | .decompress | .hash .. | .insert .. | .findMatch .. | .probe .. | .startCompress | .decidePos
  | .suppress | .lazy | .emitMatch | .emitvar .. | .accept | .literal | .emitFinal | .varintEnc .. | .varintDec ..
  | .fetch | .decvar | .litphase | .matchphase | .matchcopy .. | .wildcopy .. | .bytecopy .. => 0

/-- The distance of a token, 0 where it carries no match (R99). -/
def matchDist : Instr → Nat
  | .mX _ d => d.toNat
  | .mS _ d => d.toNat
  | .lmXX _ _ d => d.toNat
  | .lmXS _ _ d => d.toNat
  | .lmSX _ _ d => d.toNat
  | .lmSS _ _ d => d.toNat
  | .lX .. | .lS .. => 0
  | .compress | .decompress | .hash .. | .insert .. | .findMatch .. | .probe .. | .startCompress | .decidePos
  | .suppress | .lazy | .emitMatch | .emitvar .. | .accept | .literal | .emitFinal | .varintEnc .. | .varintDec ..
  | .fetch | .decvar | .litphase | .matchphase | .matchcopy .. | .wildcopy .. | .bytecopy .. => 0

/-- The end of what a token may write when it begins at output cursor `op`: the two copies with their overrun
(R205). -/
def storeEnd (i : Instr) (op : Nat) : Nat :=
  max (op + if lits i = [] then 0 else ((lits i).length + 7) / 8 * 8 + 8)
    (op + (lits i).length + if matchLen i = 0 then 0 else matchExtent (matchLen i) (matchDist i))

/-- A token by the phases of R201: FETCH, whose byte begins the token (R23), then LITPHASE where `tag >= 32`, then MATCHPHASE
unless the stream ended or the command did. -/
def byPhases (tag : Byte) (s : State) : Result :=
  andThen (exec .fetch s) fun a =>
    let a := (a.beginToken tag).withRet s.ret
    if tag.toNat < 32 then exec .matchphase a
    else
      andThen (exec .litphase a) fun b =>
        if b.status ≠ .busy ∨ b.ipN = b.inN then .next b else exec .matchphase b

/-- The state in which DECIDE goes on after its search (R162): `best_len` and `dist` from FIND_MATCH's result. -/
def searched (s a : State) (l d : Nat) : State :=
  (a.withRet s.ret).withMf { a.mf with bestLen := Word.ofNat l, dist := Word.ofNat d }

end Sys2Proof.Safety
end

