-- ==== Sys2Proof/Certificates/Slice0/Obligations.lean ====
section
/-! DEFINITION. The statements for the provers. Each docstring names the rule of spec/ it formalises. -/

open Sys2Proof Sys2Proof.Machine Sys2Proof.Safety

/-! ## Encodings (30_encoding.md) -/

/-- R90 to R100: decoding the encoding of a well-formed token gives it back, with whatever stream follows it; an L token
has nothing behind it (R93). -/
def Obligations.TokenDecodeEncode : Prop :=
  ∀ (i : Instr) (rest : List Byte), i.isToken = true → i.wf = true → (i.isFinal = true → rest = []) →
    ∃ bs, encode i = some bs ∧ decode (bs ++ rest) = .ok (i, rest)

/-- R90 to R100, R103: the decoder yields tokens only, and a well-formed one was read from exactly its encoding: no bit
of the stream is dropped. -/
def Obligations.DecodedTokenReencodes : Prop :=
  ∀ (bs : List Byte) (i : Instr) (rest : List Byte), decode bs = .ok (i, rest) →
    i.isToken = true ∧ (i.wf = true → ∃ used, encode i = some used ∧ bs = used ++ rest)

/-- R97: round trip, lengths, bijection, and which accepted strings are never produced. -/
def Obligations.VarintProperties : Prop :=
  (∀ (x : Nat) (rest : List Byte), x < 34630287488 → varintDec (varintEnc x ++ rest) = some (x, rest)) ∧
  (∀ x : Nat, x < 34630287488 → (varintEnc x).length =
    if x ≤ 127 then 1 else if x ≤ 16511 then 2 else if x ≤ 2113663 then 3 else if x ≤ 270549119 then 4 else 5) ∧
  (∀ (bs : List Byte) (c : Byte), bs.length ≤ 4 → (∀ b ∈ bs, 128 ≤ b.toNat) → c.toNat < 128 →
    ∃! x, x < 34630287488 ∧ varintEnc x = bs ++ [c]) ∧
  (∀ (bs : List Byte) (x : Nat), varintDec bs = some (x, []) → (∀ y, y < 34630287488 → varintEnc y ≠ bs) →
    bs.length = 5 ∧ ∃ c, bs.getLast? = some c ∧ 128 ≤ c.toNat)

/-- R95: one round of VARINT_ENC, on every operand. -/
def Obligations.VarintEncRounds : Prop :=
  ∀ (s : State) (x : Nat), ∃ t bs, exec (.varintEnc x) s = .next t ∧ t.ret = .bytes bs ∧ SameBut [.ret] s t ∧
    (x < 128 → bs = [BitVec.ofNat 8 x]) ∧
    (128 ≤ x → ∃ u cs, exec (.varintEnc ((x - 128) / 128)) s = .next u ∧ u.ret = .bytes cs ∧
      bs = BitVec.ofNat 8 (128 + (x - 128) % 128) :: cs) ∧
    (x < 34630287488 → 1 ≤ bs.length ∧ bs.length ≤ 5)

/-- R96: VARINT_DEC adds the whole bytes, the one at place `i` times `2^(7i)`; the sum is exact. Bytes that end inside
the varint end the command in the error exit (R202, R204, R241, R244); that a VARINT_DEC run by hand on given bytes does
so in any state is the model's choice (assumptions 8 and 16). -/
def Obligations.VarintDecSums : Prop :=
  ∀ (s : State) (bytes : List Byte),
    (varintWhole 5 bytes = true → ∃ t x, exec (.varintDec bytes) s = .next t ∧ t.ret = .value x ∧ SameBut [.ret] s t ∧
      x = (bytes.zipIdx.map fun c => c.1.toNat * 2 ^ (7 * c.2)).sum ∧ x ≤ 68990025855) ∧
    (bytes.length < 5 → (∀ b ∈ bytes, 128 ≤ b.toNat) → EndsInError s (exec (.varintDec bytes) s))

/-- R94, R98, R105: the assembler picks the field forms from the values; what it builds is well formed and carries
them. -/
def Obligations.AssemblerKeepsValues : Prop :=
  ∀ (ls : List Byte) (len : Nat) (dist : BitVec 17), ls.length < 34630287488 →
    (4 ≤ len → len < 34630287488 → ∃ i, assembleMatch ls len dist = i ∧ i.isToken = true ∧ i.isFinal = false ∧
      i.wf = true ∧ lits i = ls ∧ matchLen i = len ∧ matchDist i = dist.toNat) ∧
    (ls ≠ [] → ∃ i, assembleFinal ls = i ∧ i.isFinal = true ∧ i.wf = true ∧ lits i = ls ∧
      ∃ tag bs, encode i = some (tag :: bs) ∧ tag.toNat % 32 = 0 ∧ 32 ≤ tag.toNat)

/-- R103, R105 and the test vectors V71 to V88: words written out from the encodings, one per token form. -/
def Obligations.SpecWordsDecode : Prop :=
  decode [0x23, 0x41, 0x01, 0x00] = .ok (.lmSS [0x41] 3 1, []) ∧
  decode [0x10, 0x09, 0x00, 0x20] = .ok (.mS 0 65545, [0x20]) ∧
  decode [0x0F, 0x00, 0x04, 0x00] = .ok (.mX 0 4, []) ∧
  decode [0x2F, 0x41, 0x04, 0x01, 0x00] = .ok (.lmSX [0x41] 4 1, []) ∧
  decode [0xE0, 0x00, 0x30, 0x31, 0x32, 0x33, 0x34, 0x35, 0x36, 0x07, 0x00] =
    .ok (.lmXS [0x30, 0x31, 0x32, 0x33, 0x34, 0x35, 0x36] 0 7, []) ∧
  decode [0xEF, 0x00, 0x30, 0x31, 0x32, 0x33, 0x34, 0x35, 0x36, 0x00, 0x07, 0x00] =
    .ok (.lmXX [0x30, 0x31, 0x32, 0x33, 0x34, 0x35, 0x36] 0 7, []) ∧
  decode [0x3F, 0x41] = .ok (.lS 31 [0x41], []) ∧
  decode [0xE0, 0x00, 0x61, 0x62, 0x63, 0x64, 0x65, 0x66, 0x67] =
    .ok (.lX 0 [0x61, 0x62, 0x63, 0x64, 0x65, 0x66, 0x67], []) ∧
  decode [0xE0] = .error .fieldMissing ∧ decode [0x41, 0x41] = .error .literalsMissing ∧
  decodeCmd 0 = .compress ∧ decodeCmd 1 = .decompress

/-! ## The machine's step, reset, invariants -/

/-- A step runs the decoded instruction: the token at `ip` of a running DECOMPRESS (R201), DECIDE while `p < in_len` of
a running COMPRESS (R160), the command in `CMD` at START (R45, R104; the move is taken off the host's list). -/
def Obligations.StepRunsTheInstruction : Prop :=
  (∀ (s : State) (bs : List Byte) (i : Instr) (rest : List Byte), s.status = .busy → s.cmd = 1 → s.ipN < s.inN →
    streamRest s = some bs → decode bs = .ok (i, rest) → step s = exec i s) ∧
  (∀ s : State, s.status = .busy → s.cmd = 0 → s.pN < s.inN → step s = exec .decidePos s) ∧
  (∀ (s : State) (rest : List HostMove), s.status ≠ .busy → s.host = .start :: rest →
    step s = exec (decodeCmd s.cmd) (s.withHost rest))

/-- R55, R270: after reset `STATUS` is IDLE. The invariant of the model holds there; every other reset value is the
model's choice (assumptions 1 to 5). -/
def Obligations.ResetIsIdle : Prop := State.reset.status = .idle ∧ Inv State.reset

/-- The invariant (canonical memories and tables; register ranges of R21, R23, R214; the size bound of R173; every table
entry a walk may read is an earlier position, R32 and R33) is kept by every step. -/
def Obligations.StepKeepsInv : Prop := ∀ s t : State, Inv s → step s = .next t → Inv t

/-- R171, R213, R244: a running command never stops with a fault or a refusal. -/
def Obligations.BusyStepCompletes : Prop := ∀ s : State, Inv s → s.status = .busy → ∃ t, step s = .next t

/-- R30, R31, R60, R71, R200, R273: what a busy step leaves alone. No host move is taken, no operand register and no
byte of IN changes; DECOMPRESS touches no table and no Encoder or Match Finder register, COMPRESS no Decoder register. -/
def Obligations.BusyStepFrame : Prop :=
  ∀ s t : State, s.status = .busy → step s = .next t →
    (s.cmd = 0 → SameBut [.head, .tail, .enc, .mf, .status, .result, .outMem, .draws] s t) ∧
    (s.cmd = 1 → SameBut [.dec, .status, .result, .outMem, .draws] s t)

/-- R45, R248: how `STATUS` moves. It never returns to IDLE; only a START leaves IDLE or DONE; the whole command of an
atomic START (assumption 12) ends in DONE. -/
def Obligations.StatusMoves : Prop :=
  ∀ s t : State, step s = .next t →
    (t.status = .idle → s.status = .idle) ∧
    (s.status ≠ .busy → t.status = .busy → ∃ rest, s.host = .startStepped :: rest) ∧
    (s.status = .idle → t.status = .done → ∃ rest, s.host = .start :: rest) ∧
    (∀ rest, s.status ≠ .busy → s.host = .start :: rest → t.status = .done)

/-- R40 to R44, and the model's host moves (assumption 13): a register write changes that register alone, a lent memory
reads back, a core without a move waits. -/
def Obligations.HostMovesChangeOnePart : Prop :=
  ∀ (s : State) (rest : List HostMove), s.status ≠ .busy →
    (s.host = [] → step s = .next s) ∧
    (∀ v, s.host = .writeCmd v :: rest → ∃ t, step s = .next t ∧ t.cmd = v ∧ SameBut [.cmd, .host] s t) ∧
    (∀ v, s.host = .writeLevel v :: rest → ∃ t, step s = .next t ∧ t.level = v ∧ SameBut [.level, .host] s t) ∧
    (∀ v, s.host = .writeInLen v :: rest → ∃ t, step s = .next t ∧ t.inLen = v ∧ SameBut [.inLen, .host] s t) ∧
    (∀ v, s.host = .writeOutCap v :: rest → ∃ t, step s = .next t ∧ t.outCap = v ∧ SameBut [.outCap, .host] s t) ∧
    (∀ base bytes, s.host = .lendIn base bytes :: rest → ∃ t, step s = .next t ∧ t.inBase = base ∧
      t.outBase = s.outBase ∧ (∀ a, t.inMem.byte? a = bytes[a]?) ∧ SameBut [.inMem, .bases, .host] s t) ∧
    (∀ base bytes, s.host = .lendOut base bytes :: rest → ∃ t, step s = .next t ∧ t.outBase = base ∧
      t.inBase = s.inBase ∧ (∀ a, t.outMem.byte? a = bytes[a]?) ∧ SameBut [.outMem, .bases, .host] s t)

/-- R45, R71 (assumption 12): a command run whole by START ends in the very state that its launch and its single steps
end in. -/
def Obligations.SteppedCommandIsTheCommand : Prop :=
  ∀ (s t : State) (rest : List HostMove), s.status ≠ .busy → s.host = .startStepped :: rest →
    exec (decodeCmd s.cmd) (s.withHost rest) = .next t → ∃ n, Host.Core.run Sys2Proof.core (n + 1) s = .next t

/-! ## The Match Finder (40_match_finder.md) -/

/-- R131: the hash is the top 18 bits of the wrapping 32-bit product; nothing but the returned value changes. -/
def Obligations.HashValue : Prop :=
  ∀ (s : State) (x : Nat) (b0 b1 b2 b3 : Byte), x + 3 ≤ s.inN + 15 → s.inMem.byte? x = some b0 →
    s.inMem.byte? (x + 1) = some b1 → s.inMem.byte? (x + 2) = some b2 → s.inMem.byte? (x + 3) = some b3 →
    ∃ t h, exec (.hash x) s = .next t ∧ t.ret = .hash h ∧ hashAt s.inMem x = some h ∧ SameBut [.ret] s t ∧
      h.toNat = (b0.toNat + b1.toNat * 256 + b2.toNat * 65536 + b3.toNat * 16777216) * 2654435769 % 4294967296 / 16384

/-- R132: INSERT. That it leaves the Match Finder's register `h` alone is the model's reading (assumption 19). -/
def Obligations.InsertEffect : Prop :=
  ∀ (s : State) (q : Nat) (h : BitVec 18), DataWf s → q < s.inN → hashAt s.inMem q = some h →
    ∃ t, exec (.insert q) s = .next t ∧ t.tail.get (q % 131072) = s.head.get h.toNat ∧
      t.head.get h.toNat = BitVec.ofNat 32 q ∧
      (∀ k, k ≠ q % 131072 → t.tail.get k = s.tail.get k) ∧ (∀ k, k ≠ h.toNat → t.head.get k = s.head.get k) ∧
      SameBut [.head, .tail] s t

/-- R32: the table invariant holds at the start of a COMPRESS and every DECIDE keeps it. -/
def Obligations.DecideKeepsTableInvariant : Prop :=
  (∀ s t : State, exec .startCompress s = .next t → TableInvariant s.tail t) ∧
  (∀ (tail0 : Table) (s t : State), DataWf s → CompressOperands s → TableInvariant tail0 s →
    exec .decidePos s = .next t → TableInvariant tail0 t)

/-- R136: FIND_MATCH without its loop. The result is the longest match among the candidates of R135, cut to the budget,
the nearest one on a tie; NoMatch where none has 4 bytes. -/
def Obligations.FindMatchNearestLongest : Prop :=
  ∀ (tail0 : Table) (s : State), DataWf s → CompressOperands s → s.inMem.covers (s.inN + 16) = true →
    TableInvariant tail0 s → s.pN < s.inN →
    ∃ t, exec (.findMatch s.pN) s = .next t ∧ SameBut [.mf, .ret, .draws] s t ∧
      ((t.ret = .noMatch ∧
          (s.inN - s.pN < 4 ∨ ∀ q ∈ candidates s.inMem s.pN s.pN (maxChain s.level), ¬Agree s.inMem q s.pN 4)) ∨
       ∃ l d near q far, t.ret = .found l d ∧
          candidates s.inMem s.pN s.pN (maxChain s.level) = near ++ q :: far ∧ d = s.pN - q ∧
          4 ≤ l ∧ l ≤ s.inN - s.pN ∧ 1 ≤ d ∧ d ≤ 131071 ∧ d ≤ s.pN ∧ Agree s.inMem q s.pN l ∧
          (l < s.inN - s.pN → ¬Agree s.inMem q s.pN (l + 1)) ∧
          (∀ q' ∈ near, ¬Agree s.inMem q' s.pN l) ∧
          (∀ q' ∈ far, l < s.inN - s.pN → ¬Agree s.inMem q' s.pN (l + 1)))

/-- R139: PROBE without its loop; at levels 8 and 9 the budget does not bind. That it keeps `best_len` and `dist` is the
model's reading of R138 and R164 (assumption 19). -/
def Obligations.ProbeFindsRepetition : Prop :=
  ∀ (tail0 : Table) (s : State) (x n : Nat), DataWf s → CompressOperands s → s.inMem.covers (s.inN + 16) = true →
    TableInvariant tail0 s → s.pN < x → x ≤ s.pN + 2 → 5 ≤ n →
    ∃ t b, exec (.probe x n) s = .next t ∧ t.ret = .truth b ∧ SameBut [.mf, .ret, .draws] s t ∧
      t.mf.bestLen = s.mf.bestLen ∧ t.mf.dist = s.mf.dist ∧
      (b = true ↔ x + n ≤ s.inN ∧ ∃ q ∈ candidates s.inMem s.pN x (maxChain s.level), Agree s.inMem q x n) ∧
      (8 ≤ s.level.toNat → (b = true ↔ x + n ≤ s.inN ∧ ∃ q, q < s.pN ∧ x < q + 131072 ∧ Agree s.inMem q x n))

/-! ## The Encoder (41_encoder.md) -/

/-- R161: START_COMPRESS. -/
def Obligations.StartCompressEffect : Prop :=
  ∀ s : State, ∃ t, exec .startCompress s = .next t ∧ (∀ h, t.head.get h = 0xFFFFFFFF#32) ∧ t.pN = 0 ∧ t.runN = 0 ∧
    t.encOp = 0 ∧ SameBut [.head, .enc] s t

/-- R163: SUPPRESS. -/
def Obligations.SuppressEffect : Prop :=
  ∀ s : State, ∃ t, exec .suppress s = .next t ∧
    t.bestN = (if s.bestN = 4 ∧ 135 ≤ s.runN then 0 else s.bestN) ∧
    t.mf = { s.mf with bestLen := t.mf.bestLen } ∧ SameBut [.mf] s t

/-- R164: LAZY. That its probes keep `dist` is the model's reading of R138 (assumption 19). -/
def Obligations.LazyEffect : Prop :=
  ∀ s : State, s.inMem.covers (s.inN + 16) = true →
    ∃ t, exec .lazy s = .next t ∧ t.mf.dist = s.mf.dist ∧ SameBut [.mf, .draws] s t ∧
      ((s.level = 9 ∧ 4 ≤ s.bestN ∧ s.bestN < s.inN - s.pN ∧
          (ProbeHits s (s.pN + 1) (s.bestN + 1) ∨ ProbeHits s (s.pN + 2) (s.bestN + 2))) → t.bestN = 0) ∧
      (¬(s.level = 9 ∧ 4 ≤ s.bestN ∧ s.bestN < s.inN - s.pN ∧
          (ProbeHits s (s.pN + 1) (s.bestN + 1) ∨ ProbeHits s (s.pN + 2) (s.bestN + 2))) → t.bestN = s.bestN)

/-- R162: DECIDE is FIND_MATCH, then SUPPRESS, then LAZY, then EMIT_MATCH and ACCEPT or LITERAL, in this order; it
advances `p` by at least 1. That it completes only where `p < in_len`, the precondition, is the model's choice
(assumption 17). -/
def Obligations.DecideIsItsParts : Prop :=
  (∀ (s a : State) (l d : Nat), exec (.findMatch s.pN) s = .next a →
    ((a.ret = .noMatch ∧ l = 0 ∧ d = 0) ∨ a.ret = .found l d) →
    exec .decidePos s = andThen (exec .suppress (searched s a l d)) fun b => andThen (exec .lazy b) fun c =>
      if 4 ≤ c.bestN then andThen (exec .emitMatch c) (exec .accept) else exec .literal c) ∧
  (∀ s t : State, CompressOperands s → exec .decidePos s = .next t → s.pN < s.inN ∧ s.pN < t.pN)

/-- R162, R171: DECIDE of a running COMPRESS always completes, advances `p`, and keeps the Encoder's invariant. -/
def Obligations.DecideAdvances : Prop :=
  ∀ s : State, DataWf s → EncoderInv s → s.pN < s.inN →
    ∃ t, exec .decidePos s = .next t ∧ EncoderInv t ∧ s.pN < t.pN ∧ t.pN ≤ s.inN ∧
      SameBut [.head, .tail, .enc, .mf, .outMem, .draws] s t

/-- R165: EMIT_MATCH writes exactly the encoding of the token that the pending literals, `best_len` and `dist` make; the
literal copy may overrun as WILDCOPY does. That it runs for a `p` beyond `in_len` too is the model's choice
(assumption 30). -/
def Obligations.EmitMatchWritesToken : Prop :=
  ∀ (s : State) (ls bs : List Byte), 4 ≤ s.bestN → 1 ≤ s.distN → s.distN ≤ 131071 → s.runN ≤ s.pN →
    s.inMem.slice (s.pN - s.runN) s.runN = some ls →
    encode (assembleMatch ls s.bestN (BitVec.ofNat 17 s.distN)) = some bs →
    s.outMem.covers (s.capN + 16) = true → s.encOp + bs.length ≤ s.capN →
    ∃ t, exec .emitMatch s = .next t ∧ t.encOp = s.encOp + bs.length ∧ OutHolds t s.encOp bs ∧ t.enc.p = s.enc.p ∧
      t.enc.run = s.enc.run ∧ SameBut [.enc, .outMem, .draws] s t ∧
      OutSameOutside s.encOp
        (max (s.encOp + bs.length)
          (if s.runN = 0 then 0
           else s.encOp + 1 + (if 7 ≤ s.runN then vlen (s.runN - 7) else 0) + ((s.runN + 7) / 8 * 8 + 8))) s t

/-- R169: EMIT_FINAL writes exactly the encoding of the L token of the pending literals, nothing where there are none.
That it runs where `p` is not `in_len` too is the model's choice (assumption 30). -/
def Obligations.EmitFinalWritesToken : Prop :=
  (∀ s : State, s.runN = 0 → exec .emitFinal s = .next s) ∧
  (∀ (s : State) (ls bs : List Byte), s.runN ≠ 0 → s.runN ≤ s.pN →
    s.inMem.slice (s.pN - s.runN) s.runN = some ls → encode (assembleFinal ls) = some bs →
    s.outMem.covers (s.capN + 16) = true → s.encOp + bs.length ≤ s.capN →
    ∃ t, exec .emitFinal s = .next t ∧ t.encOp = s.encOp + bs.length ∧ OutHolds t s.encOp bs ∧ t.enc.p = s.enc.p ∧
      t.enc.run = s.enc.run ∧ SameBut [.enc, .outMem, .draws] s t ∧
      OutSameOutside s.encOp
        (s.encOp + 1 + (if 7 ≤ s.runN then vlen (s.runN - 7) else 0) + ((s.runN + 7) / 8 * 8 + 8)) s t)

/-- R166: EMITVAR writes the bytes of VARINT_ENC(x) at `op` and advances `op` by their number. That it
takes an `x` of 2^31 and more is the model's choice (assumption 30). -/
def Obligations.EmitvarWritesVarint : Prop :=
  ∀ (s : State) (x : Nat), s.outMem.covers (s.capN + 16) = true → s.encOp + vlen x ≤ s.capN →
    ∃ t, exec (.emitvar x) s = .next t ∧ OutHolds t s.encOp (varintEnc x) ∧ t.encOp = s.encOp + vlen x ∧
      t.enc.p = s.enc.p ∧ t.enc.run = s.enc.run ∧ SameBut [.enc, .outMem] s t ∧
      OutSameOutside s.encOp (s.encOp + vlen x) s t ∧ (x < 2147483648 → vlen x ≤ 5)

/-- R167: ACCEPT inserts every position of the match in increasing order, moves `p` behind it, and clears `run`. That the
insertions leave the Match Finder's register `h` alone is the model's reading (assumption 19), and that a `best_len` below 4
is taken too is its choice (assumption 30). -/
def Obligations.AcceptEffect : Prop :=
  ∀ s : State, s.inMem.covers (s.inN + 16) = true → s.pN + s.bestN ≤ s.inN →
    ∃ t u, exec .accept s = .next t ∧
      inOrder ((List.range s.bestN).map fun k => Instr.insert (s.pN + k)) s = .next u ∧
      t.head = u.head ∧ t.tail = u.tail ∧ t.pN = s.pN + s.bestN ∧ t.runN = 0 ∧ t.enc.op = s.enc.op ∧
      SameBut [.head, .tail, .enc] s t

/-- R168: LITERAL inserts `p`, and moves `run` and `p` by one; nothing is written to OUT. That the insertion leaves the
Match Finder's register `h` alone is the model's reading (assumption 19). -/
def Obligations.LiteralEffect : Prop :=
  ∀ s : State, s.inMem.covers (s.inN + 16) = true → s.pN < s.inN → s.runN ≤ s.pN →
    ∃ t u, exec .literal s = .next t ∧ exec (.insert s.pN) s = .next u ∧ t.head = u.head ∧ t.tail = u.tail ∧
      t.runN = s.runN + 1 ∧ t.pN = s.pN + 1 ∧ t.enc.op = s.enc.op ∧ SameBut [.head, .tail, .enc] s t

/-- R160, R171, R173, R174: every launch that meets the premises completes, DONE, without an error, inside the size
bound; OUT beyond the clobber zone, the operands and the Decoder are untouched. -/
def Obligations.CompressCompletes : Prop :=
  ∀ s : State, DataWf s → CompressReady s →
    ∃ t, exec .compress s = .next t ∧ t.status = .done ∧ 0 ≤ t.result.toInt ∧
      t.result.toNat ≤ s.inN + s.inN / 16519 + 3 ∧ (s.inN = 0 → t.result = 0) ∧
      (∀ a, t.result.toNat + 15 ≤ a → t.outMem.byte? a = s.outMem.byte? a) ∧
      SameBut [.head, .tail, .enc, .mf, .status, .result, .outMem, .draws] s t

/-- R247: a launch is refused if and only if it breaks a premise. -/
def Obligations.OnlyBrokenPremisesRefused : Prop :=
  (∀ s : State, ¬CompressReady s → ∃ r, exec .compress s = .refused r) ∧
  (∀ s : State, ¬DecompressReady s → ∃ r, exec .decompress s = .refused r) ∧
  (∀ (s : State) (r : Refusal), DataWf s → exec .compress s = .refused r → ¬CompressReady s) ∧
  (∀ (s : State) (r : Refusal), exec .decompress s = .refused r → ¬DecompressReady s)

/-- R172 (a): decompressing what COMPRESS wrote gives the input back, at every level, whatever the pads, the tables and
the old contents of OUT are. -/
def Obligations.DecompressOfCompressIsInput : Prop :=
  ∀ s t u v : State, DataWf s → CompressReady s → exec .compress s = .next t → DecompressReady u →
    u.inN = t.result.toNat → (∀ a, a < u.inN → u.inMem.byte? a = t.outMem.byte? a) → s.inN ≤ u.capN →
    exec .decompress u = .next v →
    v.result.toNat = s.inN ∧ ∀ a, a < s.inN → v.outMem.byte? a = s.inMem.byte? a

/-- R172 (e), R102: the first token of a stream COMPRESS writes carries literals. -/
def Obligations.FirstTokenCarriesLiterals : Prop :=
  ∀ s t : State, DataWf s → CompressReady s → 0 < s.inN → exec .compress s = .next t →
    ∃ tag, t.outMem.byte? 0 = some tag ∧ 32 ≤ tag.toNat

/-- R140, R172 (d), R273: the stream is a function of `IN[0 .. in_len-1]` and the level; pad, tables, old OUT contents
and free values do not matter. -/
def Obligations.CompressDependsOnInputAndLevel : Prop :=
  ∀ s s' t t' : State, DataWf s → DataWf s' → CompressReady s → CompressReady s' → s.inLen = s'.inLen →
    s.level = s'.level → SameInput s s' s.inN → exec .compress s = .next t → exec .compress s' = .next t' →
    t.result = t'.result ∧ ∀ a, a < t.result.toNat → t.outMem.byte? a = t'.outMem.byte? a

/-- The model's choice, assumption 17: an internal operation invoked outside the domain its rule states (R131, R132,
R134, R162, R165, R169, R203, R205, R208) is refused by name. -/
def Obligations.OutsideDomainRefused : Prop :=
  ∀ s : State,
    (∀ x, s.inN + 15 < x + 3 → exec (.hash x) s = .refused .outsideDomain) ∧
    (∀ q, s.inN ≤ q → exec (.insert q) s = .refused .outsideDomain) ∧
    (∀ p, s.inN ≤ p → exec (.findMatch p) s = .refused .outsideDomain) ∧
    (s.inN ≤ s.pN → exec .decidePos s = .refused .outsideDomain) ∧
    (s.bestN < 4 ∨ s.distN = 0 ∨ 131071 < s.distN ∨ s.pN < s.runN →
      exec .emitMatch s = .refused .outsideDomain) ∧
    (s.pN < s.runN → exec .emitFinal s = .refused .outsideDomain) ∧
    (s.dec.tag.toNat < 32 → exec .litphase s = .refused .outsideDomain) ∧
    (∀ len dist, s.decOp < dist.toNat → exec (.matchcopy len dist) s = .refused .outsideDomain) ∧
    (∀ d src n, d < src + 4 → exec (.wildcopy .output d .output src n) s = .refused .outsideDomain) ∧
    (∀ d space src n, exec (.wildcopy .input d space src n) s = .refused .outsideDomain)

/-! ## The Decoder (42_decoder.md, 60_exceptions.md) -/

/-- R202: FETCH. -/
def Obligations.FetchEffect : Prop :=
  ∀ s : State,
    (∀ b, s.ipN < s.inN → s.inMem.byte? s.ipN = some b → ∃ t, exec .fetch s = .next t ∧ t.ret = .byte b ∧
      t.ipN = s.ipN + 1 ∧ t.dec = { s.dec with ip := t.dec.ip } ∧ SameBut [.dec, .ret] s t) ∧
    (s.inN ≤ s.ipN → EndsInError s (exec .fetch s))

/-- R204: DECVAR is VARINT_DEC over the stream; it consumes the bytes it reads, and a stream that ends inside the varint
ends the command in an error. -/
def Obligations.DecvarReadsStream : Prop :=
  ∀ (s : State) (bs : List Byte), streamRest s = some bs →
    (∀ x rest, varintDec bs = some (x, rest) → ∃ t, exec .decvar s = .next t ∧ t.ret = .value x ∧
      t.ipN + rest.length = s.inN ∧ s.ipN < t.ipN ∧ t.ipN ≤ s.ipN + 5 ∧ x ≤ 68990025855 ∧
      t.dec = { s.dec with ip := t.dec.ip } ∧ SameBut [.dec, .ret] s t) ∧
    (varintDec bs = none → EndsInError s (exec .decvar s))

/-- R203: LITPHASE. That it keeps `len` and `dist` is the model's reading (assumption 31). -/
def Obligations.LitphaseEffect : Prop :=
  ∀ s : State, 32 ≤ s.dec.tag.toNat → s.inMem.covers (s.inN + 16) = true → s.outMem.covers (s.capN + 16) = true →
    s.ipN ≤ s.inN →
    (∀ run ip, RunField s run ip → s.decOp + run ≤ s.capN → ip + run ≤ s.inN →
      ∃ t, exec .litphase s = .next t ∧ t.ipN = ip + run ∧ t.decOp = s.decOp + run ∧
        t.dec = { s.dec with ip := t.dec.ip, op := t.dec.op, run := run } ∧
        t.outMem.slice s.decOp run = s.inMem.slice ip run ∧
        OutSameOutside s.decOp (s.decOp + ((run + 7) / 8 * 8 + 8)) s t ∧ SameBut [.dec, .outMem, .draws] s t) ∧
    (∀ run ip, RunField s run ip → s.capN < s.decOp + run ∨ s.inN < ip + run → EndsInError s (exec .litphase s)) ∧
    (RunFieldMissing s → EndsInError s (exec .litphase s))

/-- R207: MATCHPHASE, with the periodic bytes of R209 for every distance but 0, and both settings of `DIST0` for 0. That it
keeps `run` is the model's reading (assumption 31). -/
def Obligations.MatchphaseEffect : Prop :=
  ∀ s : State, s.inMem.covers (s.inN + 16) = true → s.outMem.covers (s.capN + 16) = true → s.ipN ≤ s.inN →
    (∀ len ip lo hi d, LenField s len ip → s.decOp + len ≤ s.capN → ip + 2 ≤ s.inN → s.inMem.byte? ip = some lo →
      s.inMem.byte? (ip + 1) = some hi → d = (s.dec.tag.toNat / 16 % 2) * 65536 + hi.toNat * 256 + lo.toNat →
      (d ≤ s.decOp → (d = 0 → s.dist0 = .selfcopy) →
        ∃ t, exec .matchphase s = .next t ∧ t.ipN = ip + 2 ∧ t.decOp = s.decOp + len ∧ t.dec.len = len ∧
          t.dec.dist.toNat = d ∧ t.dec.tag = s.dec.tag ∧ t.dec.run = s.dec.run ∧
          (1 ≤ d → ∀ k, k < len → t.outMem.byte? (s.decOp + k) = s.outMem.byte? (s.decOp - d + k % d)) ∧
          OutSameOutside s.decOp (s.decOp + matchExtent len d) s t ∧ SameBut [.dec, .outMem, .draws] s t) ∧
      (s.decOp < d ∨ (d = 0 ∧ s.dist0 = .error) → EndsInError s (exec .matchphase s))) ∧
    (∀ len ip, LenField s len ip → s.capN < s.decOp + len ∨ s.inN < ip + 2 → EndsInError s (exec .matchphase s)) ∧
    (LenFieldMissing s → EndsInError s (exec .matchphase s))

/-- R208, R209: MATCHCOPY repeats the last `dist` bytes; distance 0 follows the parameter `DIST0`. That a `len` below 4 is
copied too is the model's choice (assumption 30). -/
def Obligations.MatchcopyRepeats : Prop :=
  ∀ (s : State) (len : Nat) (dist : BitVec 17), dist.toNat ≤ s.decOp → s.outMem.covers (s.decOp + len) = true →
    (1 ≤ dist.toNat → ∃ t, exec (.matchcopy len dist) s = .next t ∧
      (∀ k, k < len → t.outMem.byte? (s.decOp + k) = s.outMem.byte? (s.decOp - dist.toNat + k % dist.toNat)) ∧
      OutSameOutside s.decOp (s.decOp + matchExtent len dist.toNat) s t ∧ SameBut [.outMem, .draws] s t) ∧
    (dist = 0 → s.dist0 = .selfcopy → ∃ t, exec (.matchcopy len dist) s = .next t ∧
      OutSameOutside s.decOp (s.decOp + len) s t ∧ SameBut [.outMem, .draws] s t) ∧
    (dist = 0 → s.dist0 = .error → EndsInError s (exec (.matchcopy len dist) s))

/-- R205: WILDCOPY copies as if byte by byte and writes nothing beyond `((n + 7) & ~7) + 8` bytes; it does not write IN,
and inside OUT it is used only with `d - s >= 4` (elsewhere: `OutsideDomainRefused`). What it does with `n = 0` is the
model's choice (assumption 30). -/
def Obligations.WildcopyEffect : Prop :=
  ∀ (s : State) (d src n : Nat),
    ((∀ k, k < n → (s.inMem.byte? (src + k)).isSome = true) → (∀ k, k < n → (s.outMem.byte? (d + k)).isSome = true) →
      ∃ t, exec (.wildcopy .output d .input src n) s = .next t ∧
        (∀ k, k < n → t.outMem.byte? (d + k) = s.inMem.byte? (src + k)) ∧
        OutSameOutside d (d + ((n + 7) / 8 * 8 + 8)) s t ∧ SameBut [.outMem, .draws] s t) ∧
    (src + 4 ≤ d → (∀ k, src ≤ k → k < d + n → (s.outMem.byte? k).isSome = true) →
      ∃ t, exec (.wildcopy .output d .output src n) s = .next t ∧
        (∀ k, k < n → t.outMem.byte? (d + k) = t.outMem.byte? (src + k)) ∧
        OutSameOutside d (d + ((n + 7) / 8 * 8 + 8)) s t ∧ SameBut [.outMem, .draws] s t)

/-- R206: BYTECOPY re-reads what it wrote, and writes exactly `n` bytes. What it does with `n = 0` and with a `d - s` outside
1 to 3 is the model's choice (assumption 30). -/
def Obligations.BytecopyEffect : Prop :=
  ∀ (s : State) (d src n : Nat), (∀ k, k < n → (s.outMem.byte? (src + k)).isSome = true) →
    (∀ k, k < n → (s.outMem.byte? (d + k)).isSome = true) →
    ∃ t, exec (.bytecopy d src n) s = .next t ∧
      (src < d → ∀ k, k < n → t.outMem.byte? (d + k) = s.outMem.byte? (src + k % (d - src))) ∧
      (d ≤ src → ∀ k, k < n → t.outMem.byte? (d + k) = s.outMem.byte? (src + k)) ∧
      OutSameOutside d (d + n) s t ∧ SameBut [.outMem] s t

/-- R220 to R227, R23: a token of any form whose checks pass executes: the literals, then the match, both cursors, the
registers `run`, `len` and `dist` derived from this token, and the frame. Distance 0 is in `ZeroDistanceToken`. The model's own:
`run` is 0 after an M token (assumption 31); `STATUS` is kept after an L token, whose command ends in the next step
(assumption 22); an L token run by hand with stream bytes left behind it runs as an L token (assumption 30). -/
def Obligations.TokenExecutes : Prop :=
  ∀ (i : Instr) (s : State), i.isToken = true → i.wf = true → DecompressOperands s →
    s.outMem.covers (s.capN + 16) = true → s.decOp + (lits i).length + matchLen i ≤ s.capN →
    s.ipN + i.byteLength ≤ s.inN →
    (i.isFinal = false → 1 ≤ matchDist i ∧ matchDist i ≤ s.decOp + (lits i).length) →
    ∃ t, exec i s = .next t ∧ t.ipN = s.ipN + i.byteLength ∧ t.decOp = s.decOp + (lits i).length + matchLen i ∧
      t.dec.run = (lits i).length ∧
      (i.isFinal = false → t.dec.len = matchLen i ∧ t.dec.dist.toNat = matchDist i) ∧
      OutHolds t s.decOp (lits i) ∧
      (∀ k, k < matchLen i → t.outMem.byte? (s.decOp + (lits i).length + k) =
        t.outMem.byte? (s.decOp + (lits i).length - matchDist i + k % matchDist i)) ∧
      OutSameOutside s.decOp (storeEnd i s.decOp) s t ∧ SameBut [.dec, .outMem, .draws] s t

/-- R208, R220 to R225, assumption 10: a token with distance 0 whose other checks pass goes on under `selfcopy`, its
`matchLen` bytes unspecified, and ends in an error under `error`. -/
def Obligations.ZeroDistanceToken : Prop :=
  ∀ (i : Instr) (s : State), i.isToken = true → i.isFinal = false → i.wf = true → DecompressOperands s →
    s.outMem.covers (s.capN + 16) = true → s.decOp + (lits i).length + matchLen i ≤ s.capN →
    s.ipN + i.byteLength ≤ s.inN → matchDist i = 0 →
    (s.dist0 = .selfcopy → ∃ t, exec i s = .next t ∧ t.ipN = s.ipN + i.byteLength ∧
      t.decOp = s.decOp + (lits i).length + matchLen i ∧ OutHolds t s.decOp (lits i) ∧
      OutSameOutside s.decOp (storeEnd i s.decOp) s t ∧ SameBut [.dec, .outMem, .draws] s t) ∧
    (s.dist0 = .error → EndsInError s (exec i s))

/-- R203, R207, R220 to R227, R242: a token whose output does not fit, whose bytes are not all there, or whose match
starts before the output, ends the command in an error. The model's own: an LM form run by hand on a stream that ends exactly
behind its literals is such an error (assumption 30), where the decoder reads that stream as an L token (R93); a token run by
hand in any state ends so (assumption 8). -/
def Obligations.TokenErrors : Prop :=
  ∀ (i : Instr) (s : State), i.isToken = true → i.wf = true → DecompressOperands s →
    s.outMem.covers (s.capN + 16) = true → s.ipN ≤ s.inN → s.decOp ≤ s.capN →
    (s.capN < s.decOp + (lits i).length + matchLen i ∨ s.inN < s.ipN + i.byteLength ∨
      s.decOp + (lits i).length < matchDist i) →
    EndsInError s (exec i s)

/-- R201, R220 to R227: a decoded token does what FETCH, LITPHASE and MATCHPHASE do on the same stream: the same state
where it succeeds, an error where it fails. In both, the token begins with the
same registers (R23, assumption 31). -/
def Obligations.TokenIsItsPhases : Prop :=
  ∀ (s t : State) (bs : List Byte) (i : Instr) (rest : List Byte) (tag : Byte), s.status = .busy → DecoderInv s →
    s.ipN < s.inN → streamRest s = some bs → decode bs = .ok (i, rest) → s.inMem.byte? s.ipN = some tag →
    exec i s = .next t →
    (t.status = .busy → byPhases tag s = .next t) ∧
    (t.status = .done → ∃ u, byPhases tag s = .next u ∧ u.status = .done ∧ u.result = 0xFFFFFFFF#32)

/-- R241: a stream that ends inside a token ends the command at once: `RESULT` is -1, `STATUS` is DONE, nothing is
saved. -/
def Obligations.BrokenStreamEndsInError : Prop :=
  ∀ (s : State) (bs : List Byte) (e : Reject), s.status = .busy → s.cmd = 1 → s.ipN < s.inN →
    streamRest s = some bs → decode bs = .error e → EndsInError s (step s)

/-- R210: at the end of the loop the command succeeds with `RESULT` = `op` if and only if `ip` = `in_len`. That this is
a step of its own is the model's reading (assumption 22). -/
def Obligations.LoopExitReportsCount : Prop :=
  ∀ s : State, s.status = .busy → s.cmd = 1 →
    (s.ipN = s.inN → ∃ t, step s = .next t ∧ t.status = .done ∧ t.result = s.dec.op ∧
      OutSameOutside s.decOp (s.decOp + 15) s t ∧ SameBut [.dec, .status, .result, .outMem, .draws] s t) ∧
    (s.inN < s.ipN → EndsInError s (step s))

/-- R25, R214: a token moves `ip` forward, never beyond `in_len`, and `op` never beyond the capacity. -/
def Obligations.TokenMovesCursors : Prop :=
  ∀ s t : State, s.status = .busy → s.cmd = 1 → DecoderInv s → s.ipN < s.inN → step s = .next t → t.status = .busy →
    s.ipN < t.ipN ∧ t.ipN ≤ s.inN ∧ s.decOp < t.decOp ∧ t.decOp ≤ s.capN

/-- R46, R63, R200, R213, R244: every launch that meets the premises completes, DONE, in an error or in a count that does
not exceed the capacity; OUT beyond the clobber zone and everything else is untouched. -/
def Obligations.DecompressCompletes : Prop :=
  ∀ s : State, DecompressReady s →
    ∃ t, exec .decompress s = .next t ∧ t.status = .done ∧ SameBut [.dec, .status, .result, .outMem, .draws] s t ∧
      ((t.result = 0xFFFFFFFF#32 ∧ ∀ a, s.capN + 15 ≤ a → t.outMem.byte? a = s.outMem.byte? a) ∨
       (t.result.toNat ≤ s.capN ∧ ∀ a, t.result.toNat + 15 ≤ a → t.outMem.byte? a = s.outMem.byte? a))

/-- R212, R273: `RESULT` of DECOMPRESS is a function of the operands and `IN[0 .. in_len-1]` (for one setting of
`DIST0`); pad, old OUT contents and free values do not matter. -/
def Obligations.DecompressResultDependsOnStream : Prop :=
  ∀ s s' t t' : State, DecompressReady s → DecompressReady s' → s.inLen = s'.inLen → s.outCap = s'.outCap →
    s.dist0 = s'.dist0 → SameInput s s' s.inN → exec .decompress s = .next t → exec .decompress s' = .next t' →
    t.result = t'.result

/-- R215 (a), (b): a stream COMPRESS wrote, cut anywhere, decodes to an error or to a prefix of the input; whole, with a
capacity below the input's length, it decodes to an error. -/
def Obligations.CutStreamGivesPrefixOrError : Prop :=
  ∀ s t u v : State, DataWf s → CompressReady s → exec .compress s = .next t → DecompressReady u →
    u.inN ≤ t.result.toNat → (∀ a, a < u.inN → u.inMem.byte? a = t.outMem.byte? a) → exec .decompress u = .next v →
    (v.result = 0xFFFFFFFF#32 ∨
      (v.result.toNat ≤ s.inN ∧ ∀ a, a < v.result.toNat → v.outMem.byte? a = s.inMem.byte? a)) ∧
    (u.inN = t.result.toNat → u.capN < s.inN → v.result = 0xFFFFFFFF#32)

/-- R22, R23, R24: a search is the same whatever an earlier search left in the Match Finder's registers (PROBE keeps `best_len`
and `dist`, assumption 19); a token is the same whatever an earlier token left in the Decoder's registers but the two
cursors. -/
def Obligations.NoRegisterCarriesOver : Prop :=
  ∀ s : State,
    (∀ (p : Nat) (m : MatchRegs), exec (.findMatch p) (s.withMf m) = exec (.findMatch p) s) ∧
    (∀ (x n : Nat) (m : MatchRegs), m.bestLen = s.mf.bestLen → m.dist = s.mf.dist →
      exec (.probe x n) (s.withMf m) = exec (.probe x n) s) ∧
    (∀ (i : Instr) (d : DecRegs), i.isToken = true → d.ip = s.dec.ip → d.op = s.dec.op →
      exec i (s.withDec d) = exec i s)
end

