-- ==== Sys2Proof/Laws/Memory.lean ====
section
/-! SUPPORT. Byte memories and tables: read after write, other places untouched, the canonical form kept. -/

namespace Sys2Proof.Machine

namespace Memory

/-- The addresses a memory lists. -/
def addrs (m : Memory) : List Nat := m.map Prod.fst

@[simp] theorem addrs_nil : addrs [] = [] := rfl
@[simp] theorem addrs_cons (c : Host.Cell) (m : Memory) : addrs (c :: m) = c.1 :: addrs m := rfl

/-- The canonical form depends on the addresses alone. -/
theorem wf_of_addrs : ∀ {m m' : Memory}, addrs m' = addrs m → m.wf = true → m'.wf = true
  | [], m', h, _ => by
    have : m' = [] := by simpa [addrs] using h
    simp [this, wf]
  | [c], m', h, _ => by
    obtain ⟨d, rfl⟩ : ∃ d, m' = [d] := by
      cases m' with
      | nil => simp at h
      | cons d r =>
        cases r with
        | nil => exact ⟨d, rfl⟩
        | cons e r => simp at h
    simp [wf]
  | c :: d :: r, m', h, hw => by
    cases m' with
    | nil => simp at h
    | cons c' r' =>
      cases r' with
      | nil => simp at h
      | cons d' r' =>
        simp only [addrs_cons, List.cons.injEq] at h
        obtain ⟨hc, hd, hr⟩ := h
        simp only [wf, Bool.and_eq_true, decide_eq_true_eq] at hw ⊢
        refine ⟨by omega, wf_of_addrs (m := d :: r) ?_ hw.2⟩
        simp [hd, hr]

theorem byte?_set?_self : ∀ {m m' : Memory} {a : Nat} {v : Byte}, set? m a v = some m' → byte? m' a = some v
  | [], _, _, _, h => by simp [set?] at h
  | (x, b) :: rest, m', a, v, h => by
    simp only [set?] at h
    split at h
    · next hx => cases h; simp [byte?, hx]
    · next hx =>
      split at h
      · cases h
      · next r hr => cases h; simpa [byte?, hx] using byte?_set?_self hr

theorem byte?_set?_ne : ∀ {m m' : Memory} {a c : Nat} {v : Byte}, set? m a v = some m' → c ≠ a → byte? m' c = byte? m c
  | [], _, _, _, _, h, _ => by simp [set?] at h
  | (x, b) :: rest, m', a, c, v, h, hc => by
    simp only [set?] at h
    split at h
    · next hx =>
      cases h
      have : x ≠ c := fun e => hc (e ▸ hx)
      simp [byte?, this]
    · next hx =>
      split at h
      · cases h
      · next r hr =>
        cases h
        simp only [byte?]
        split
        · rfl
        · exact byte?_set?_ne hr hc

theorem addrs_set? : ∀ {m m' : Memory} {a : Nat} {v : Byte}, set? m a v = some m' → addrs m' = addrs m
  | [], _, _, _, h => by simp [set?] at h
  | (x, b) :: rest, m', a, v, h => by
    simp only [set?] at h
    split at h
    · cases h; rfl
    · split at h
      · cases h
      · next r hr => cases h; simp [addrs_set? hr]

/-- A store succeeds exactly where a byte exists. -/
theorem set?_isSome : ∀ (m : Memory) (a : Nat) (v : Byte), (set? m a v).isSome = (byte? m a).isSome
  | [], _, _ => rfl
  | (x, b) :: rest, a, v => by
    simp only [set?, byte?]
    split
    · rfl
    · have := set?_isSome rest a v
      cases h : set? rest a v <;> simp_all

theorem addrs_setBytes? : ∀ {bs : List Byte} {m m' : Memory} {a : Nat}, setBytes? m a bs = some m' → addrs m' = addrs m
  | [], m, m', a, h => by cases h; rfl
  | b :: bs, m, m', a, h => by
    simp only [setBytes?] at h
    split at h
    · cases h
    · next r hr => rw [addrs_setBytes? h, addrs_set? hr]

/-- A run of stored bytes leaves every byte outside it alone. -/
theorem byte?_setBytes?_outside : ∀ {bs : List Byte} {m m' : Memory} {a c : Nat}, setBytes? m a bs = some m' →
    (c < a ∨ a + bs.length ≤ c) → byte? m' c = byte? m c
  | [], m, m', a, c, h, _ => by cases h; rfl
  | b :: bs, m, m', a, c, h, hc => by
    simp only [setBytes?] at h
    split at h
    · cases h
    · next r hr =>
      simp only [List.length_cons] at hc
      rw [byte?_setBytes?_outside h (by omega), byte?_set?_ne hr (by omega)]

/-- A run of stored bytes reads back. -/
theorem slice_setBytes? : ∀ {bs : List Byte} {m m' : Memory} {a : Nat}, setBytes? m a bs = some m' →
    slice m' a bs.length = some bs
  | [], m, m', a, h => by cases h; rfl
  | b :: bs, m, m', a, h => by
    simp only [setBytes?] at h
    split at h
    · cases h
    · next r hr =>
      have hb : byte? m' a = some b := by
        rw [byte?_setBytes?_outside h (by omega), byte?_set?_self hr]
      simp [slice, hb, slice_setBytes? h]

theorem addrs_scramble (a n k : Nat) : ∀ m : Memory, addrs (scramble a n k m) = addrs m
  | [] => rfl
  | (x, b) :: rest => by
    simp only [scramble]
    split <;> simp [addrs_scramble a n k rest]

/-- What a byte reads as after a scramble: a free value inside the range, the old byte outside. -/
theorem byte?_scramble (a n k c : Nat) : ∀ m : Memory, byte? (scramble a n k m) c =
    if a ≤ c ∧ c < a + n then (byte? m c).map fun _ => Config.freeByte (k + (c - a)) else byte? m c
  | [] => by simp [scramble, byte?]
  | (x, b) :: rest => by
    have ih := byte?_scramble a n k c rest
    simp only [scramble]
    by_cases hx : x = c
    · subst hx
      split <;> simp [byte?]
    · split <;> simp [byte?, hx, ih]

theorem byte?_scramble_outside {a n k c : Nat} {m : Memory} (h : c < a ∨ a + n ≤ c) :
    byte? (scramble a n k m) c = byte? m c := by
  rw [byte?_scramble, if_neg (by omega)]

theorem slice_isSome_iff : ∀ (n a : Nat) (m : Memory), (slice m a n).isSome = true ↔
    ∀ c, a ≤ c → c < a + n → (byte? m c).isSome = true
  | 0, a, m => by
    simp only [slice, Option.isSome_some, true_iff]
    intro c h1 h2
    omega
  | n + 1, a, m => by
    have ih := slice_isSome_iff n (a + 1) m
    simp only [slice]
    constructor
    · intro h c h1 h2
      cases hb : byte? m a with
      | none => simp [hb] at h
      | some b =>
        cases hs : slice m (a + 1) n with
        | none => simp [hb, hs] at h
        | some bs =>
          by_cases hc : c = a
          · simp [hc, hb]
          · exact ih.1 (by simp [hs]) c (by omega) (by omega)
    · intro h
      have h0 := h a (by omega) (by omega)
      have h1 : (slice m (a + 1) n).isSome = true := ih.2 fun c hc1 hc2 => h c (by omega) (by omega)
      cases hb : byte? m a with
      | none => simp [hb] at h0
      | some b =>
        cases hs : slice m (a + 1) n with
        | none => simp [hs] at h1
        | some bs => simp

/-- `covers` says that every byte of the range was lent. -/
theorem covers_iff (m : Memory) (n : Nat) : m.covers n = true ↔ ∀ c, c < n → (byte? m c).isSome = true := by
  unfold covers
  rw [slice_isSome_iff]
  exact ⟨fun h c hc => h c (by omega) (by omega), fun h c _ hc => h c (by omega)⟩

theorem byte?_isSome_iff_mem : ∀ (m : Memory) (a : Nat), (byte? m a).isSome = true ↔ a ∈ addrs m
  | [], a => by simp [byte?]
  | (x, b) :: rest, a => by
    have ih := byte?_isSome_iff_mem rest a
    simp only [byte?, addrs_cons, List.mem_cons]
    split
    · next h => simp [h]
    · next h => rw [ih]; exact ⟨Or.inr, fun h' => h'.resolve_left fun e => h e.symm⟩

/-- Which bytes exist depends on the addresses alone. -/
theorem covers_of_addrs {m m' : Memory} (h : addrs m' = addrs m) (n : Nat) : m'.covers n = m.covers n := by
  rw [Bool.eq_iff_iff, covers_iff, covers_iff]
  simp only [byte?_isSome_iff_mem, h]

theorem ofBytes_wf : ∀ (bs : List Byte) (a : Nat), (ofBytes a bs).wf = true
  | [], _ => rfl
  | [_], _ => rfl
  | b :: c :: bs, a => by
    have := ofBytes_wf (c :: bs) (a + 1)
    simp only [ofBytes, wf, Bool.and_eq_true, decide_eq_true_eq] at this ⊢
    exact ⟨by omega, this⟩

theorem set?_wf {m m' : Memory} {a : Nat} {v : Byte} (h : set? m a v = some m') (hw : m.wf = true) : m'.wf = true :=
  wf_of_addrs (addrs_set? h) hw
theorem setBytes?_wf {m m' : Memory} {a : Nat} {bs : List Byte} (h : setBytes? m a bs = some m') (hw : m.wf = true) :
    m'.wf = true := wf_of_addrs (addrs_setBytes? h) hw
theorem scramble_wf {m : Memory} (a n k : Nat) (hw : m.wf = true) : (scramble a n k m).wf = true :=
  wf_of_addrs (addrs_scramble a n k m) hw

end Memory

/-- A block copy keeps the addresses (R205, R206). -/
theorem copyLoop_addrs {inM : Memory} {src : Space} : ∀ {n d s : Nat} {out out' : Memory},
    copyLoop inM src n d s out = .ok out' → out'.addrs = out.addrs
  | 0, d, s, out, out', h => by cases h; rfl
  | n + 1, d, s, out, out', h => by
    simp only [copyLoop] at h
    split at h
    · cases h
    · split at h
      · cases h
      · next r hr => rw [copyLoop_addrs h, Memory.addrs_set? hr]

/-- A block copy writes only its nominal range. -/
theorem copyLoop_outside {inM : Memory} {src : Space} : ∀ {n d s c : Nat} {out out' : Memory},
    copyLoop inM src n d s out = .ok out' → (c < d ∨ d + n ≤ c) → out'.byte? c = out.byte? c
  | 0, d, s, c, out, out', h, _ => by cases h; rfl
  | n + 1, d, s, c, out, out', h, hc => by
    simp only [copyLoop] at h
    split at h
    · cases h
    · split at h
      · cases h
      · next r hr => rw [copyLoop_outside h (by omega), Memory.byte?_set?_ne hr (by omega)]

theorem copyLoop_wf {inM : Memory} {src : Space} {n d s : Nat} {out out' : Memory}
    (h : copyLoop inM src n d s out = .ok out') (hw : out.wf = true) : out'.wf = true :=
  Memory.wf_of_addrs (copyLoop_addrs h) hw

namespace Table

theorem wf_tail {size : Nat} {c : Nat × Word} : ∀ {t : Table}, wf size (c :: t) = true → wf size t = true
  | [], _ => rfl
  | d :: t, h => by
    simp only [wf, Bool.and_eq_true] at h
    exact h.2

/-- An index below the first one listed holds `NIL`. -/
theorem get_below {size k : Nat} : ∀ {t : Table}, wf size t = true → (∀ c ∈ t.head?, k < c.1) → get t k = Config.NIL
  | [], _, _ => rfl
  | [(x, v)], _, h => by
    have : k < x := h (x, v) (by simp)
    simp only [get]
    rw [if_neg (by omega)]
  | (x, v) :: (y, w) :: t, hw, h => by
    have hx : k < x := h (x, v) (by simp)
    have hw' := wf_tail hw
    simp only [wf, Bool.and_eq_true, decide_eq_true_eq] at hw
    rw [get, if_neg (by omega)]
    exact get_below hw' (by simpa using by omega)

/-- Read after write, and every other index untouched. -/
theorem get_set {size k j : Nat} {v : Word} : ∀ {t : Table}, wf size t = true →
    get (set t k v) j = if j = k then v else get t j
  | [], _ => by
    simp only [set]
    split
    · next h => simp [get, h]
    · simp [get, eq_comm]
  | (x, w) :: t, hw => by
    have ih := get_set (k := k) (j := j) (v := v) (wf_tail hw)
    have hbelow : ∀ i, i < x → get ((x, w) :: t) i = Config.NIL := fun i hi => get_below hw (by simpa using hi)
    have hnext : ∀ i, i ≤ x → get t i = Config.NIL := by
      intro i hi
      cases t with
      | nil => rfl
      | cons d t =>
        refine get_below (wf_tail hw) ?_
        simp only [wf, Bool.and_eq_true, decide_eq_true_eq] at hw
        simpa using by omega
    simp only [set]
    split
    · next hk =>
      split
      · next hv =>
        split
        · next hj => rw [hj, hbelow k hk, hv]
        · rfl
      · simp only [get]
        by_cases hj : j = k
        · simp [hj]
        · rw [if_neg (fun e => hj e.symm), if_neg hj]
    · split
      · next hk =>
        subst hk
        split
        · next hv =>
          by_cases hj : j = k
          · rw [if_pos hj, hj, hnext k (le_refl k), hv]
          · rw [if_neg hj, get, if_neg (fun e => hj e.symm)]
        · by_cases hj : j = k
          · simp [get, hj]
          · rw [if_neg hj, get, get, if_neg (fun e => hj e.symm), if_neg (fun e => hj e.symm)]
      · next hk1 hk2 =>
        simp only [get]
        by_cases hj : x = j
        · subst hj
          rw [if_pos rfl, if_neg (fun e => hk2 e.symm), if_pos rfl]
        · rw [if_neg hj, if_neg hj, ih]

theorem wf_cons {size x : Nat} {v : Word} {t : Table} (hx : x < size) (hv : v ≠ Config.NIL) (ht : wf size t = true)
    (hn : ∀ c ∈ t.head?, x < c.1) : wf size ((x, v) :: t) = true := by
  cases t with
  | nil => simp only [wf, Bool.and_eq_true, decide_eq_true_eq]; exact ⟨hx, hv⟩
  | cons d t =>
    have : x < d.1 := hn d (by simp)
    simp only [wf, Bool.and_eq_true, decide_eq_true_eq]
    exact ⟨⟨this, hv⟩, ht⟩

theorem wf_head_facts {size x : Nat} {v : Word} {t : Table} (h : wf size ((x, v) :: t) = true) :
    x < size ∧ v ≠ Config.NIL ∧ ∀ c ∈ t.head?, x < c.1 := by
  induction t generalizing x v with
  | nil =>
    simp only [wf, Bool.and_eq_true, decide_eq_true_eq] at h
    exact ⟨h.1, h.2, by simp⟩
  | cons d t ih =>
    have h2 := ih (x := d.1) (v := d.2) (wf_tail h)
    simp only [wf, Bool.and_eq_true, decide_eq_true_eq] at h
    exact ⟨by omega, h.1.2, by simpa using h.1.1⟩

/-- A table write keeps the canonical form. -/
theorem set_wf {size k : Nat} {v : Word} (hk : k < size) : ∀ {t : Table}, wf size t = true → wf size (set t k v) = true
  | [], _ => by
    simp only [set]
    split
    · rfl
    · next h => simp only [wf, Bool.and_eq_true, decide_eq_true_eq]; exact ⟨hk, h⟩
  | (x, w) :: t, hw => by
    obtain ⟨hx, hv, hn⟩ := wf_head_facts hw
    simp only [set]
    split
    · next h =>
      split
      · exact hw
      · next hvn => exact wf_cons hk hvn hw (by simpa using h)
    · split
      · next h1 h2 =>
        subst h2
        split
        · exact wf_tail hw
        · next hvn => exact wf_cons hk hvn (wf_tail hw) hn
      · next h1 h2 =>
        refine wf_cons hx hv (set_wf hk (wf_tail hw)) ?_
        cases t with
        | nil =>
          simp only [set]
          split
          · simp
          · simpa using by omega
        | cons d t =>
          have hd : x < d.1 := hn d (by simp)
          have hd2 : ∀ c ∈ t.head?, d.1 < c.1 := (wf_head_facts (x := d.1) (v := d.2) (wf_tail hw)).2.2
          simp only [set]
          split
          · split
            · simpa using hd
            · simpa using by omega
          · split
            · split
              · intro c hc; have := hd2 c hc; omega
              · simpa using by omega
            · simpa using hd

end Table

end Sys2Proof.Machine
end

