-- ==== Sys2Proof/Laws/State.lean ====
section
/-! SUPPORT. One lemma per field per update of State, true by rfl, and of the two exits, so that no later proof unfolds an update. -/

namespace Sys2Proof.Machine.State

@[simp] theorem withHead_head (s : State) (v : Table) : (s.withHead v).head = v := rfl
@[simp] theorem withHead_tail (s : State) (v : Table) : (s.withHead v).tail = s.tail := rfl
@[simp] theorem withHead_enc (s : State) (v : Table) : (s.withHead v).enc = s.enc := rfl
@[simp] theorem withHead_mf (s : State) (v : Table) : (s.withHead v).mf = s.mf := rfl
@[simp] theorem withHead_dec (s : State) (v : Table) : (s.withHead v).dec = s.dec := rfl
@[simp] theorem withHead_cmd (s : State) (v : Table) : (s.withHead v).cmd = s.cmd := rfl
@[simp] theorem withHead_level (s : State) (v : Table) : (s.withHead v).level = s.level := rfl
@[simp] theorem withHead_inLen (s : State) (v : Table) : (s.withHead v).inLen = s.inLen := rfl
@[simp] theorem withHead_outCap (s : State) (v : Table) : (s.withHead v).outCap = s.outCap := rfl
@[simp] theorem withHead_status (s : State) (v : Table) : (s.withHead v).status = s.status := rfl
@[simp] theorem withHead_result (s : State) (v : Table) : (s.withHead v).result = s.result := rfl
@[simp] theorem withHead_inMem (s : State) (v : Table) : (s.withHead v).inMem = s.inMem := rfl
@[simp] theorem withHead_outMem (s : State) (v : Table) : (s.withHead v).outMem = s.outMem := rfl
@[simp] theorem withHead_inBase (s : State) (v : Table) : (s.withHead v).inBase = s.inBase := rfl
@[simp] theorem withHead_outBase (s : State) (v : Table) : (s.withHead v).outBase = s.outBase := rfl
@[simp] theorem withHead_dist0 (s : State) (v : Table) : (s.withHead v).dist0 = s.dist0 := rfl
@[simp] theorem withHead_host (s : State) (v : Table) : (s.withHead v).host = s.host := rfl
@[simp] theorem withHead_draws (s : State) (v : Table) : (s.withHead v).draws = s.draws := rfl
@[simp] theorem withHead_ret (s : State) (v : Table) : (s.withHead v).ret = s.ret := rfl

@[simp] theorem withTail_head (s : State) (v : Table) : (s.withTail v).head = s.head := rfl
@[simp] theorem withTail_tail (s : State) (v : Table) : (s.withTail v).tail = v := rfl
@[simp] theorem withTail_enc (s : State) (v : Table) : (s.withTail v).enc = s.enc := rfl
@[simp] theorem withTail_mf (s : State) (v : Table) : (s.withTail v).mf = s.mf := rfl
@[simp] theorem withTail_dec (s : State) (v : Table) : (s.withTail v).dec = s.dec := rfl
@[simp] theorem withTail_cmd (s : State) (v : Table) : (s.withTail v).cmd = s.cmd := rfl
@[simp] theorem withTail_level (s : State) (v : Table) : (s.withTail v).level = s.level := rfl
@[simp] theorem withTail_inLen (s : State) (v : Table) : (s.withTail v).inLen = s.inLen := rfl
@[simp] theorem withTail_outCap (s : State) (v : Table) : (s.withTail v).outCap = s.outCap := rfl
@[simp] theorem withTail_status (s : State) (v : Table) : (s.withTail v).status = s.status := rfl
@[simp] theorem withTail_result (s : State) (v : Table) : (s.withTail v).result = s.result := rfl
@[simp] theorem withTail_inMem (s : State) (v : Table) : (s.withTail v).inMem = s.inMem := rfl
@[simp] theorem withTail_outMem (s : State) (v : Table) : (s.withTail v).outMem = s.outMem := rfl
@[simp] theorem withTail_inBase (s : State) (v : Table) : (s.withTail v).inBase = s.inBase := rfl
@[simp] theorem withTail_outBase (s : State) (v : Table) : (s.withTail v).outBase = s.outBase := rfl
@[simp] theorem withTail_dist0 (s : State) (v : Table) : (s.withTail v).dist0 = s.dist0 := rfl
@[simp] theorem withTail_host (s : State) (v : Table) : (s.withTail v).host = s.host := rfl
@[simp] theorem withTail_draws (s : State) (v : Table) : (s.withTail v).draws = s.draws := rfl
@[simp] theorem withTail_ret (s : State) (v : Table) : (s.withTail v).ret = s.ret := rfl

@[simp] theorem withEnc_head (s : State) (v : EncRegs) : (s.withEnc v).head = s.head := rfl
@[simp] theorem withEnc_tail (s : State) (v : EncRegs) : (s.withEnc v).tail = s.tail := rfl
@[simp] theorem withEnc_enc (s : State) (v : EncRegs) : (s.withEnc v).enc = v := rfl
@[simp] theorem withEnc_mf (s : State) (v : EncRegs) : (s.withEnc v).mf = s.mf := rfl
@[simp] theorem withEnc_dec (s : State) (v : EncRegs) : (s.withEnc v).dec = s.dec := rfl
@[simp] theorem withEnc_cmd (s : State) (v : EncRegs) : (s.withEnc v).cmd = s.cmd := rfl
@[simp] theorem withEnc_level (s : State) (v : EncRegs) : (s.withEnc v).level = s.level := rfl
@[simp] theorem withEnc_inLen (s : State) (v : EncRegs) : (s.withEnc v).inLen = s.inLen := rfl
@[simp] theorem withEnc_outCap (s : State) (v : EncRegs) : (s.withEnc v).outCap = s.outCap := rfl
@[simp] theorem withEnc_status (s : State) (v : EncRegs) : (s.withEnc v).status = s.status := rfl
@[simp] theorem withEnc_result (s : State) (v : EncRegs) : (s.withEnc v).result = s.result := rfl
@[simp] theorem withEnc_inMem (s : State) (v : EncRegs) : (s.withEnc v).inMem = s.inMem := rfl
@[simp] theorem withEnc_outMem (s : State) (v : EncRegs) : (s.withEnc v).outMem = s.outMem := rfl
@[simp] theorem withEnc_inBase (s : State) (v : EncRegs) : (s.withEnc v).inBase = s.inBase := rfl
@[simp] theorem withEnc_outBase (s : State) (v : EncRegs) : (s.withEnc v).outBase = s.outBase := rfl
@[simp] theorem withEnc_dist0 (s : State) (v : EncRegs) : (s.withEnc v).dist0 = s.dist0 := rfl
@[simp] theorem withEnc_host (s : State) (v : EncRegs) : (s.withEnc v).host = s.host := rfl
@[simp] theorem withEnc_draws (s : State) (v : EncRegs) : (s.withEnc v).draws = s.draws := rfl
@[simp] theorem withEnc_ret (s : State) (v : EncRegs) : (s.withEnc v).ret = s.ret := rfl

@[simp] theorem withMf_head (s : State) (v : MatchRegs) : (s.withMf v).head = s.head := rfl
@[simp] theorem withMf_tail (s : State) (v : MatchRegs) : (s.withMf v).tail = s.tail := rfl
@[simp] theorem withMf_enc (s : State) (v : MatchRegs) : (s.withMf v).enc = s.enc := rfl
@[simp] theorem withMf_mf (s : State) (v : MatchRegs) : (s.withMf v).mf = v := rfl
@[simp] theorem withMf_dec (s : State) (v : MatchRegs) : (s.withMf v).dec = s.dec := rfl
@[simp] theorem withMf_cmd (s : State) (v : MatchRegs) : (s.withMf v).cmd = s.cmd := rfl
@[simp] theorem withMf_level (s : State) (v : MatchRegs) : (s.withMf v).level = s.level := rfl
@[simp] theorem withMf_inLen (s : State) (v : MatchRegs) : (s.withMf v).inLen = s.inLen := rfl
@[simp] theorem withMf_outCap (s : State) (v : MatchRegs) : (s.withMf v).outCap = s.outCap := rfl
@[simp] theorem withMf_status (s : State) (v : MatchRegs) : (s.withMf v).status = s.status := rfl
@[simp] theorem withMf_result (s : State) (v : MatchRegs) : (s.withMf v).result = s.result := rfl
@[simp] theorem withMf_inMem (s : State) (v : MatchRegs) : (s.withMf v).inMem = s.inMem := rfl
@[simp] theorem withMf_outMem (s : State) (v : MatchRegs) : (s.withMf v).outMem = s.outMem := rfl
@[simp] theorem withMf_inBase (s : State) (v : MatchRegs) : (s.withMf v).inBase = s.inBase := rfl
@[simp] theorem withMf_outBase (s : State) (v : MatchRegs) : (s.withMf v).outBase = s.outBase := rfl
@[simp] theorem withMf_dist0 (s : State) (v : MatchRegs) : (s.withMf v).dist0 = s.dist0 := rfl
@[simp] theorem withMf_host (s : State) (v : MatchRegs) : (s.withMf v).host = s.host := rfl
@[simp] theorem withMf_draws (s : State) (v : MatchRegs) : (s.withMf v).draws = s.draws := rfl
@[simp] theorem withMf_ret (s : State) (v : MatchRegs) : (s.withMf v).ret = s.ret := rfl

@[simp] theorem withDec_head (s : State) (v : DecRegs) : (s.withDec v).head = s.head := rfl
@[simp] theorem withDec_tail (s : State) (v : DecRegs) : (s.withDec v).tail = s.tail := rfl
@[simp] theorem withDec_enc (s : State) (v : DecRegs) : (s.withDec v).enc = s.enc := rfl
@[simp] theorem withDec_mf (s : State) (v : DecRegs) : (s.withDec v).mf = s.mf := rfl
@[simp] theorem withDec_dec (s : State) (v : DecRegs) : (s.withDec v).dec = v := rfl
@[simp] theorem withDec_cmd (s : State) (v : DecRegs) : (s.withDec v).cmd = s.cmd := rfl
@[simp] theorem withDec_level (s : State) (v : DecRegs) : (s.withDec v).level = s.level := rfl
@[simp] theorem withDec_inLen (s : State) (v : DecRegs) : (s.withDec v).inLen = s.inLen := rfl
@[simp] theorem withDec_outCap (s : State) (v : DecRegs) : (s.withDec v).outCap = s.outCap := rfl
@[simp] theorem withDec_status (s : State) (v : DecRegs) : (s.withDec v).status = s.status := rfl
@[simp] theorem withDec_result (s : State) (v : DecRegs) : (s.withDec v).result = s.result := rfl
@[simp] theorem withDec_inMem (s : State) (v : DecRegs) : (s.withDec v).inMem = s.inMem := rfl
@[simp] theorem withDec_outMem (s : State) (v : DecRegs) : (s.withDec v).outMem = s.outMem := rfl
@[simp] theorem withDec_inBase (s : State) (v : DecRegs) : (s.withDec v).inBase = s.inBase := rfl
@[simp] theorem withDec_outBase (s : State) (v : DecRegs) : (s.withDec v).outBase = s.outBase := rfl
@[simp] theorem withDec_dist0 (s : State) (v : DecRegs) : (s.withDec v).dist0 = s.dist0 := rfl
@[simp] theorem withDec_host (s : State) (v : DecRegs) : (s.withDec v).host = s.host := rfl
@[simp] theorem withDec_draws (s : State) (v : DecRegs) : (s.withDec v).draws = s.draws := rfl
@[simp] theorem withDec_ret (s : State) (v : DecRegs) : (s.withDec v).ret = s.ret := rfl

@[simp] theorem withStatus_head (s : State) (v : Status) : (s.withStatus v).head = s.head := rfl
@[simp] theorem withStatus_tail (s : State) (v : Status) : (s.withStatus v).tail = s.tail := rfl
@[simp] theorem withStatus_enc (s : State) (v : Status) : (s.withStatus v).enc = s.enc := rfl
@[simp] theorem withStatus_mf (s : State) (v : Status) : (s.withStatus v).mf = s.mf := rfl
@[simp] theorem withStatus_dec (s : State) (v : Status) : (s.withStatus v).dec = s.dec := rfl
@[simp] theorem withStatus_cmd (s : State) (v : Status) : (s.withStatus v).cmd = s.cmd := rfl
@[simp] theorem withStatus_level (s : State) (v : Status) : (s.withStatus v).level = s.level := rfl
@[simp] theorem withStatus_inLen (s : State) (v : Status) : (s.withStatus v).inLen = s.inLen := rfl
@[simp] theorem withStatus_outCap (s : State) (v : Status) : (s.withStatus v).outCap = s.outCap := rfl
@[simp] theorem withStatus_status (s : State) (v : Status) : (s.withStatus v).status = v := rfl
@[simp] theorem withStatus_result (s : State) (v : Status) : (s.withStatus v).result = s.result := rfl
@[simp] theorem withStatus_inMem (s : State) (v : Status) : (s.withStatus v).inMem = s.inMem := rfl
@[simp] theorem withStatus_outMem (s : State) (v : Status) : (s.withStatus v).outMem = s.outMem := rfl
@[simp] theorem withStatus_inBase (s : State) (v : Status) : (s.withStatus v).inBase = s.inBase := rfl
@[simp] theorem withStatus_outBase (s : State) (v : Status) : (s.withStatus v).outBase = s.outBase := rfl
@[simp] theorem withStatus_dist0 (s : State) (v : Status) : (s.withStatus v).dist0 = s.dist0 := rfl
@[simp] theorem withStatus_host (s : State) (v : Status) : (s.withStatus v).host = s.host := rfl
@[simp] theorem withStatus_draws (s : State) (v : Status) : (s.withStatus v).draws = s.draws := rfl
@[simp] theorem withStatus_ret (s : State) (v : Status) : (s.withStatus v).ret = s.ret := rfl

@[simp] theorem withResult_head (s : State) (v : Word) : (s.withResult v).head = s.head := rfl
@[simp] theorem withResult_tail (s : State) (v : Word) : (s.withResult v).tail = s.tail := rfl
@[simp] theorem withResult_enc (s : State) (v : Word) : (s.withResult v).enc = s.enc := rfl
@[simp] theorem withResult_mf (s : State) (v : Word) : (s.withResult v).mf = s.mf := rfl
@[simp] theorem withResult_dec (s : State) (v : Word) : (s.withResult v).dec = s.dec := rfl
@[simp] theorem withResult_cmd (s : State) (v : Word) : (s.withResult v).cmd = s.cmd := rfl
@[simp] theorem withResult_level (s : State) (v : Word) : (s.withResult v).level = s.level := rfl
@[simp] theorem withResult_inLen (s : State) (v : Word) : (s.withResult v).inLen = s.inLen := rfl
@[simp] theorem withResult_outCap (s : State) (v : Word) : (s.withResult v).outCap = s.outCap := rfl
@[simp] theorem withResult_status (s : State) (v : Word) : (s.withResult v).status = s.status := rfl
@[simp] theorem withResult_result (s : State) (v : Word) : (s.withResult v).result = v := rfl
@[simp] theorem withResult_inMem (s : State) (v : Word) : (s.withResult v).inMem = s.inMem := rfl
@[simp] theorem withResult_outMem (s : State) (v : Word) : (s.withResult v).outMem = s.outMem := rfl
@[simp] theorem withResult_inBase (s : State) (v : Word) : (s.withResult v).inBase = s.inBase := rfl
@[simp] theorem withResult_outBase (s : State) (v : Word) : (s.withResult v).outBase = s.outBase := rfl
@[simp] theorem withResult_dist0 (s : State) (v : Word) : (s.withResult v).dist0 = s.dist0 := rfl
@[simp] theorem withResult_host (s : State) (v : Word) : (s.withResult v).host = s.host := rfl
@[simp] theorem withResult_draws (s : State) (v : Word) : (s.withResult v).draws = s.draws := rfl
@[simp] theorem withResult_ret (s : State) (v : Word) : (s.withResult v).ret = s.ret := rfl

@[simp] theorem withOut_head (s : State) (v : Memory) : (s.withOut v).head = s.head := rfl
@[simp] theorem withOut_tail (s : State) (v : Memory) : (s.withOut v).tail = s.tail := rfl
@[simp] theorem withOut_enc (s : State) (v : Memory) : (s.withOut v).enc = s.enc := rfl
@[simp] theorem withOut_mf (s : State) (v : Memory) : (s.withOut v).mf = s.mf := rfl
@[simp] theorem withOut_dec (s : State) (v : Memory) : (s.withOut v).dec = s.dec := rfl
@[simp] theorem withOut_cmd (s : State) (v : Memory) : (s.withOut v).cmd = s.cmd := rfl
@[simp] theorem withOut_level (s : State) (v : Memory) : (s.withOut v).level = s.level := rfl
@[simp] theorem withOut_inLen (s : State) (v : Memory) : (s.withOut v).inLen = s.inLen := rfl
@[simp] theorem withOut_outCap (s : State) (v : Memory) : (s.withOut v).outCap = s.outCap := rfl
@[simp] theorem withOut_status (s : State) (v : Memory) : (s.withOut v).status = s.status := rfl
@[simp] theorem withOut_result (s : State) (v : Memory) : (s.withOut v).result = s.result := rfl
@[simp] theorem withOut_inMem (s : State) (v : Memory) : (s.withOut v).inMem = s.inMem := rfl
@[simp] theorem withOut_outMem (s : State) (v : Memory) : (s.withOut v).outMem = v := rfl
@[simp] theorem withOut_inBase (s : State) (v : Memory) : (s.withOut v).inBase = s.inBase := rfl
@[simp] theorem withOut_outBase (s : State) (v : Memory) : (s.withOut v).outBase = s.outBase := rfl
@[simp] theorem withOut_dist0 (s : State) (v : Memory) : (s.withOut v).dist0 = s.dist0 := rfl
@[simp] theorem withOut_host (s : State) (v : Memory) : (s.withOut v).host = s.host := rfl
@[simp] theorem withOut_draws (s : State) (v : Memory) : (s.withOut v).draws = s.draws := rfl
@[simp] theorem withOut_ret (s : State) (v : Memory) : (s.withOut v).ret = s.ret := rfl

@[simp] theorem withDraws_head (s : State) (v : Nat) : (s.withDraws v).head = s.head := rfl
@[simp] theorem withDraws_tail (s : State) (v : Nat) : (s.withDraws v).tail = s.tail := rfl
@[simp] theorem withDraws_enc (s : State) (v : Nat) : (s.withDraws v).enc = s.enc := rfl
@[simp] theorem withDraws_mf (s : State) (v : Nat) : (s.withDraws v).mf = s.mf := rfl
@[simp] theorem withDraws_dec (s : State) (v : Nat) : (s.withDraws v).dec = s.dec := rfl
@[simp] theorem withDraws_cmd (s : State) (v : Nat) : (s.withDraws v).cmd = s.cmd := rfl
@[simp] theorem withDraws_level (s : State) (v : Nat) : (s.withDraws v).level = s.level := rfl
@[simp] theorem withDraws_inLen (s : State) (v : Nat) : (s.withDraws v).inLen = s.inLen := rfl
@[simp] theorem withDraws_outCap (s : State) (v : Nat) : (s.withDraws v).outCap = s.outCap := rfl
@[simp] theorem withDraws_status (s : State) (v : Nat) : (s.withDraws v).status = s.status := rfl
@[simp] theorem withDraws_result (s : State) (v : Nat) : (s.withDraws v).result = s.result := rfl
@[simp] theorem withDraws_inMem (s : State) (v : Nat) : (s.withDraws v).inMem = s.inMem := rfl
@[simp] theorem withDraws_outMem (s : State) (v : Nat) : (s.withDraws v).outMem = s.outMem := rfl
@[simp] theorem withDraws_inBase (s : State) (v : Nat) : (s.withDraws v).inBase = s.inBase := rfl
@[simp] theorem withDraws_outBase (s : State) (v : Nat) : (s.withDraws v).outBase = s.outBase := rfl
@[simp] theorem withDraws_dist0 (s : State) (v : Nat) : (s.withDraws v).dist0 = s.dist0 := rfl
@[simp] theorem withDraws_host (s : State) (v : Nat) : (s.withDraws v).host = s.host := rfl
@[simp] theorem withDraws_draws (s : State) (v : Nat) : (s.withDraws v).draws = v := rfl
@[simp] theorem withDraws_ret (s : State) (v : Nat) : (s.withDraws v).ret = s.ret := rfl

@[simp] theorem withRet_head (s : State) (v : Ret) : (s.withRet v).head = s.head := rfl
@[simp] theorem withRet_tail (s : State) (v : Ret) : (s.withRet v).tail = s.tail := rfl
@[simp] theorem withRet_enc (s : State) (v : Ret) : (s.withRet v).enc = s.enc := rfl
@[simp] theorem withRet_mf (s : State) (v : Ret) : (s.withRet v).mf = s.mf := rfl
@[simp] theorem withRet_dec (s : State) (v : Ret) : (s.withRet v).dec = s.dec := rfl
@[simp] theorem withRet_cmd (s : State) (v : Ret) : (s.withRet v).cmd = s.cmd := rfl
@[simp] theorem withRet_level (s : State) (v : Ret) : (s.withRet v).level = s.level := rfl
@[simp] theorem withRet_inLen (s : State) (v : Ret) : (s.withRet v).inLen = s.inLen := rfl
@[simp] theorem withRet_outCap (s : State) (v : Ret) : (s.withRet v).outCap = s.outCap := rfl
@[simp] theorem withRet_status (s : State) (v : Ret) : (s.withRet v).status = s.status := rfl
@[simp] theorem withRet_result (s : State) (v : Ret) : (s.withRet v).result = s.result := rfl
@[simp] theorem withRet_inMem (s : State) (v : Ret) : (s.withRet v).inMem = s.inMem := rfl
@[simp] theorem withRet_outMem (s : State) (v : Ret) : (s.withRet v).outMem = s.outMem := rfl
@[simp] theorem withRet_inBase (s : State) (v : Ret) : (s.withRet v).inBase = s.inBase := rfl
@[simp] theorem withRet_outBase (s : State) (v : Ret) : (s.withRet v).outBase = s.outBase := rfl
@[simp] theorem withRet_dist0 (s : State) (v : Ret) : (s.withRet v).dist0 = s.dist0 := rfl
@[simp] theorem withRet_host (s : State) (v : Ret) : (s.withRet v).host = s.host := rfl
@[simp] theorem withRet_draws (s : State) (v : Ret) : (s.withRet v).draws = s.draws := rfl
@[simp] theorem withRet_ret (s : State) (v : Ret) : (s.withRet v).ret = v := rfl

@[simp] theorem withHost_head (s : State) (v : List HostMove) : (s.withHost v).head = s.head := rfl
@[simp] theorem withHost_tail (s : State) (v : List HostMove) : (s.withHost v).tail = s.tail := rfl
@[simp] theorem withHost_enc (s : State) (v : List HostMove) : (s.withHost v).enc = s.enc := rfl
@[simp] theorem withHost_mf (s : State) (v : List HostMove) : (s.withHost v).mf = s.mf := rfl
@[simp] theorem withHost_dec (s : State) (v : List HostMove) : (s.withHost v).dec = s.dec := rfl
@[simp] theorem withHost_cmd (s : State) (v : List HostMove) : (s.withHost v).cmd = s.cmd := rfl
@[simp] theorem withHost_level (s : State) (v : List HostMove) : (s.withHost v).level = s.level := rfl
@[simp] theorem withHost_inLen (s : State) (v : List HostMove) : (s.withHost v).inLen = s.inLen := rfl
@[simp] theorem withHost_outCap (s : State) (v : List HostMove) : (s.withHost v).outCap = s.outCap := rfl
@[simp] theorem withHost_status (s : State) (v : List HostMove) : (s.withHost v).status = s.status := rfl
@[simp] theorem withHost_result (s : State) (v : List HostMove) : (s.withHost v).result = s.result := rfl
@[simp] theorem withHost_inMem (s : State) (v : List HostMove) : (s.withHost v).inMem = s.inMem := rfl
@[simp] theorem withHost_outMem (s : State) (v : List HostMove) : (s.withHost v).outMem = s.outMem := rfl
@[simp] theorem withHost_inBase (s : State) (v : List HostMove) : (s.withHost v).inBase = s.inBase := rfl
@[simp] theorem withHost_outBase (s : State) (v : List HostMove) : (s.withHost v).outBase = s.outBase := rfl
@[simp] theorem withHost_dist0 (s : State) (v : List HostMove) : (s.withHost v).dist0 = s.dist0 := rfl
@[simp] theorem withHost_host (s : State) (v : List HostMove) : (s.withHost v).host = v := rfl
@[simp] theorem withHost_draws (s : State) (v : List HostMove) : (s.withHost v).draws = s.draws := rfl
@[simp] theorem withHost_ret (s : State) (v : List HostMove) : (s.withHost v).ret = s.ret := rfl

@[simp] theorem setP_head (s : State) (v : Nat) : (s.setP v).head = s.head := rfl
@[simp] theorem setP_tail (s : State) (v : Nat) : (s.setP v).tail = s.tail := rfl
@[simp] theorem setP_enc (s : State) (v : Nat) : (s.setP v).enc = { s.enc with p := Word.ofNat v } := rfl
@[simp] theorem setP_mf (s : State) (v : Nat) : (s.setP v).mf = s.mf := rfl
@[simp] theorem setP_dec (s : State) (v : Nat) : (s.setP v).dec = s.dec := rfl
@[simp] theorem setP_cmd (s : State) (v : Nat) : (s.setP v).cmd = s.cmd := rfl
@[simp] theorem setP_level (s : State) (v : Nat) : (s.setP v).level = s.level := rfl
@[simp] theorem setP_inLen (s : State) (v : Nat) : (s.setP v).inLen = s.inLen := rfl
@[simp] theorem setP_outCap (s : State) (v : Nat) : (s.setP v).outCap = s.outCap := rfl
@[simp] theorem setP_status (s : State) (v : Nat) : (s.setP v).status = s.status := rfl
@[simp] theorem setP_result (s : State) (v : Nat) : (s.setP v).result = s.result := rfl
@[simp] theorem setP_inMem (s : State) (v : Nat) : (s.setP v).inMem = s.inMem := rfl
@[simp] theorem setP_outMem (s : State) (v : Nat) : (s.setP v).outMem = s.outMem := rfl
@[simp] theorem setP_inBase (s : State) (v : Nat) : (s.setP v).inBase = s.inBase := rfl
@[simp] theorem setP_outBase (s : State) (v : Nat) : (s.setP v).outBase = s.outBase := rfl
@[simp] theorem setP_dist0 (s : State) (v : Nat) : (s.setP v).dist0 = s.dist0 := rfl
@[simp] theorem setP_host (s : State) (v : Nat) : (s.setP v).host = s.host := rfl
@[simp] theorem setP_draws (s : State) (v : Nat) : (s.setP v).draws = s.draws := rfl
@[simp] theorem setP_ret (s : State) (v : Nat) : (s.setP v).ret = s.ret := rfl

@[simp] theorem setRun_head (s : State) (v : Nat) : (s.setRun v).head = s.head := rfl
@[simp] theorem setRun_tail (s : State) (v : Nat) : (s.setRun v).tail = s.tail := rfl
@[simp] theorem setRun_enc (s : State) (v : Nat) : (s.setRun v).enc = { s.enc with run := Word.ofNat v } := rfl
@[simp] theorem setRun_mf (s : State) (v : Nat) : (s.setRun v).mf = s.mf := rfl
@[simp] theorem setRun_dec (s : State) (v : Nat) : (s.setRun v).dec = s.dec := rfl
@[simp] theorem setRun_cmd (s : State) (v : Nat) : (s.setRun v).cmd = s.cmd := rfl
@[simp] theorem setRun_level (s : State) (v : Nat) : (s.setRun v).level = s.level := rfl
@[simp] theorem setRun_inLen (s : State) (v : Nat) : (s.setRun v).inLen = s.inLen := rfl
@[simp] theorem setRun_outCap (s : State) (v : Nat) : (s.setRun v).outCap = s.outCap := rfl
@[simp] theorem setRun_status (s : State) (v : Nat) : (s.setRun v).status = s.status := rfl
@[simp] theorem setRun_result (s : State) (v : Nat) : (s.setRun v).result = s.result := rfl
@[simp] theorem setRun_inMem (s : State) (v : Nat) : (s.setRun v).inMem = s.inMem := rfl
@[simp] theorem setRun_outMem (s : State) (v : Nat) : (s.setRun v).outMem = s.outMem := rfl
@[simp] theorem setRun_inBase (s : State) (v : Nat) : (s.setRun v).inBase = s.inBase := rfl
@[simp] theorem setRun_outBase (s : State) (v : Nat) : (s.setRun v).outBase = s.outBase := rfl
@[simp] theorem setRun_dist0 (s : State) (v : Nat) : (s.setRun v).dist0 = s.dist0 := rfl
@[simp] theorem setRun_host (s : State) (v : Nat) : (s.setRun v).host = s.host := rfl
@[simp] theorem setRun_draws (s : State) (v : Nat) : (s.setRun v).draws = s.draws := rfl
@[simp] theorem setRun_ret (s : State) (v : Nat) : (s.setRun v).ret = s.ret := rfl

@[simp] theorem setEncOp_head (s : State) (v : Nat) : (s.setEncOp v).head = s.head := rfl
@[simp] theorem setEncOp_tail (s : State) (v : Nat) : (s.setEncOp v).tail = s.tail := rfl
@[simp] theorem setEncOp_enc (s : State) (v : Nat) : (s.setEncOp v).enc = { s.enc with op := Word.ofNat v } := rfl
@[simp] theorem setEncOp_mf (s : State) (v : Nat) : (s.setEncOp v).mf = s.mf := rfl
@[simp] theorem setEncOp_dec (s : State) (v : Nat) : (s.setEncOp v).dec = s.dec := rfl
@[simp] theorem setEncOp_cmd (s : State) (v : Nat) : (s.setEncOp v).cmd = s.cmd := rfl
@[simp] theorem setEncOp_level (s : State) (v : Nat) : (s.setEncOp v).level = s.level := rfl
@[simp] theorem setEncOp_inLen (s : State) (v : Nat) : (s.setEncOp v).inLen = s.inLen := rfl
@[simp] theorem setEncOp_outCap (s : State) (v : Nat) : (s.setEncOp v).outCap = s.outCap := rfl
@[simp] theorem setEncOp_status (s : State) (v : Nat) : (s.setEncOp v).status = s.status := rfl
@[simp] theorem setEncOp_result (s : State) (v : Nat) : (s.setEncOp v).result = s.result := rfl
@[simp] theorem setEncOp_inMem (s : State) (v : Nat) : (s.setEncOp v).inMem = s.inMem := rfl
@[simp] theorem setEncOp_outMem (s : State) (v : Nat) : (s.setEncOp v).outMem = s.outMem := rfl
@[simp] theorem setEncOp_inBase (s : State) (v : Nat) : (s.setEncOp v).inBase = s.inBase := rfl
@[simp] theorem setEncOp_outBase (s : State) (v : Nat) : (s.setEncOp v).outBase = s.outBase := rfl
@[simp] theorem setEncOp_dist0 (s : State) (v : Nat) : (s.setEncOp v).dist0 = s.dist0 := rfl
@[simp] theorem setEncOp_host (s : State) (v : Nat) : (s.setEncOp v).host = s.host := rfl
@[simp] theorem setEncOp_draws (s : State) (v : Nat) : (s.setEncOp v).draws = s.draws := rfl
@[simp] theorem setEncOp_ret (s : State) (v : Nat) : (s.setEncOp v).ret = s.ret := rfl

@[simp] theorem setIp_head (s : State) (v : Nat) : (s.setIp v).head = s.head := rfl
@[simp] theorem setIp_tail (s : State) (v : Nat) : (s.setIp v).tail = s.tail := rfl
@[simp] theorem setIp_enc (s : State) (v : Nat) : (s.setIp v).enc = s.enc := rfl
@[simp] theorem setIp_mf (s : State) (v : Nat) : (s.setIp v).mf = s.mf := rfl
@[simp] theorem setIp_dec (s : State) (v : Nat) : (s.setIp v).dec = { s.dec with ip := Word.ofNat v } := rfl
@[simp] theorem setIp_cmd (s : State) (v : Nat) : (s.setIp v).cmd = s.cmd := rfl
@[simp] theorem setIp_level (s : State) (v : Nat) : (s.setIp v).level = s.level := rfl
@[simp] theorem setIp_inLen (s : State) (v : Nat) : (s.setIp v).inLen = s.inLen := rfl
@[simp] theorem setIp_outCap (s : State) (v : Nat) : (s.setIp v).outCap = s.outCap := rfl
@[simp] theorem setIp_status (s : State) (v : Nat) : (s.setIp v).status = s.status := rfl
@[simp] theorem setIp_result (s : State) (v : Nat) : (s.setIp v).result = s.result := rfl
@[simp] theorem setIp_inMem (s : State) (v : Nat) : (s.setIp v).inMem = s.inMem := rfl
@[simp] theorem setIp_outMem (s : State) (v : Nat) : (s.setIp v).outMem = s.outMem := rfl
@[simp] theorem setIp_inBase (s : State) (v : Nat) : (s.setIp v).inBase = s.inBase := rfl
@[simp] theorem setIp_outBase (s : State) (v : Nat) : (s.setIp v).outBase = s.outBase := rfl
@[simp] theorem setIp_dist0 (s : State) (v : Nat) : (s.setIp v).dist0 = s.dist0 := rfl
@[simp] theorem setIp_host (s : State) (v : Nat) : (s.setIp v).host = s.host := rfl
@[simp] theorem setIp_draws (s : State) (v : Nat) : (s.setIp v).draws = s.draws := rfl
@[simp] theorem setIp_ret (s : State) (v : Nat) : (s.setIp v).ret = s.ret := rfl

@[simp] theorem setDecOp_head (s : State) (v : Nat) : (s.setDecOp v).head = s.head := rfl
@[simp] theorem setDecOp_tail (s : State) (v : Nat) : (s.setDecOp v).tail = s.tail := rfl
@[simp] theorem setDecOp_enc (s : State) (v : Nat) : (s.setDecOp v).enc = s.enc := rfl
@[simp] theorem setDecOp_mf (s : State) (v : Nat) : (s.setDecOp v).mf = s.mf := rfl
@[simp] theorem setDecOp_dec (s : State) (v : Nat) : (s.setDecOp v).dec = { s.dec with op := Word.ofNat v } := rfl
@[simp] theorem setDecOp_cmd (s : State) (v : Nat) : (s.setDecOp v).cmd = s.cmd := rfl
@[simp] theorem setDecOp_level (s : State) (v : Nat) : (s.setDecOp v).level = s.level := rfl
@[simp] theorem setDecOp_inLen (s : State) (v : Nat) : (s.setDecOp v).inLen = s.inLen := rfl
@[simp] theorem setDecOp_outCap (s : State) (v : Nat) : (s.setDecOp v).outCap = s.outCap := rfl
@[simp] theorem setDecOp_status (s : State) (v : Nat) : (s.setDecOp v).status = s.status := rfl
@[simp] theorem setDecOp_result (s : State) (v : Nat) : (s.setDecOp v).result = s.result := rfl
@[simp] theorem setDecOp_inMem (s : State) (v : Nat) : (s.setDecOp v).inMem = s.inMem := rfl
@[simp] theorem setDecOp_outMem (s : State) (v : Nat) : (s.setDecOp v).outMem = s.outMem := rfl
@[simp] theorem setDecOp_inBase (s : State) (v : Nat) : (s.setDecOp v).inBase = s.inBase := rfl
@[simp] theorem setDecOp_outBase (s : State) (v : Nat) : (s.setDecOp v).outBase = s.outBase := rfl
@[simp] theorem setDecOp_dist0 (s : State) (v : Nat) : (s.setDecOp v).dist0 = s.dist0 := rfl
@[simp] theorem setDecOp_host (s : State) (v : Nat) : (s.setDecOp v).host = s.host := rfl
@[simp] theorem setDecOp_draws (s : State) (v : Nat) : (s.setDecOp v).draws = s.draws := rfl
@[simp] theorem setDecOp_ret (s : State) (v : Nat) : (s.setDecOp v).ret = s.ret := rfl

@[simp] theorem setTag_head (s : State) (v : Byte) : (s.setTag v).head = s.head := rfl
@[simp] theorem setTag_tail (s : State) (v : Byte) : (s.setTag v).tail = s.tail := rfl
@[simp] theorem setTag_enc (s : State) (v : Byte) : (s.setTag v).enc = s.enc := rfl
@[simp] theorem setTag_mf (s : State) (v : Byte) : (s.setTag v).mf = s.mf := rfl
@[simp] theorem setTag_dec (s : State) (v : Byte) : (s.setTag v).dec = { s.dec with tag := v } := rfl
@[simp] theorem setTag_cmd (s : State) (v : Byte) : (s.setTag v).cmd = s.cmd := rfl
@[simp] theorem setTag_level (s : State) (v : Byte) : (s.setTag v).level = s.level := rfl
@[simp] theorem setTag_inLen (s : State) (v : Byte) : (s.setTag v).inLen = s.inLen := rfl
@[simp] theorem setTag_outCap (s : State) (v : Byte) : (s.setTag v).outCap = s.outCap := rfl
@[simp] theorem setTag_status (s : State) (v : Byte) : (s.setTag v).status = s.status := rfl
@[simp] theorem setTag_result (s : State) (v : Byte) : (s.setTag v).result = s.result := rfl
@[simp] theorem setTag_inMem (s : State) (v : Byte) : (s.setTag v).inMem = s.inMem := rfl
@[simp] theorem setTag_outMem (s : State) (v : Byte) : (s.setTag v).outMem = s.outMem := rfl
@[simp] theorem setTag_inBase (s : State) (v : Byte) : (s.setTag v).inBase = s.inBase := rfl
@[simp] theorem setTag_outBase (s : State) (v : Byte) : (s.setTag v).outBase = s.outBase := rfl
@[simp] theorem setTag_dist0 (s : State) (v : Byte) : (s.setTag v).dist0 = s.dist0 := rfl
@[simp] theorem setTag_host (s : State) (v : Byte) : (s.setTag v).host = s.host := rfl
@[simp] theorem setTag_draws (s : State) (v : Byte) : (s.setTag v).draws = s.draws := rfl
@[simp] theorem setTag_ret (s : State) (v : Byte) : (s.setTag v).ret = s.ret := rfl

@[simp] theorem setDecRun_head (s : State) (v : Nat) : (s.setDecRun v).head = s.head := rfl
@[simp] theorem setDecRun_tail (s : State) (v : Nat) : (s.setDecRun v).tail = s.tail := rfl
@[simp] theorem setDecRun_enc (s : State) (v : Nat) : (s.setDecRun v).enc = s.enc := rfl
@[simp] theorem setDecRun_mf (s : State) (v : Nat) : (s.setDecRun v).mf = s.mf := rfl
@[simp] theorem setDecRun_dec (s : State) (v : Nat) : (s.setDecRun v).dec = { s.dec with run := v } := rfl
@[simp] theorem setDecRun_cmd (s : State) (v : Nat) : (s.setDecRun v).cmd = s.cmd := rfl
@[simp] theorem setDecRun_level (s : State) (v : Nat) : (s.setDecRun v).level = s.level := rfl
@[simp] theorem setDecRun_inLen (s : State) (v : Nat) : (s.setDecRun v).inLen = s.inLen := rfl
@[simp] theorem setDecRun_outCap (s : State) (v : Nat) : (s.setDecRun v).outCap = s.outCap := rfl
@[simp] theorem setDecRun_status (s : State) (v : Nat) : (s.setDecRun v).status = s.status := rfl
@[simp] theorem setDecRun_result (s : State) (v : Nat) : (s.setDecRun v).result = s.result := rfl
@[simp] theorem setDecRun_inMem (s : State) (v : Nat) : (s.setDecRun v).inMem = s.inMem := rfl
@[simp] theorem setDecRun_outMem (s : State) (v : Nat) : (s.setDecRun v).outMem = s.outMem := rfl
@[simp] theorem setDecRun_inBase (s : State) (v : Nat) : (s.setDecRun v).inBase = s.inBase := rfl
@[simp] theorem setDecRun_outBase (s : State) (v : Nat) : (s.setDecRun v).outBase = s.outBase := rfl
@[simp] theorem setDecRun_dist0 (s : State) (v : Nat) : (s.setDecRun v).dist0 = s.dist0 := rfl
@[simp] theorem setDecRun_host (s : State) (v : Nat) : (s.setDecRun v).host = s.host := rfl
@[simp] theorem setDecRun_draws (s : State) (v : Nat) : (s.setDecRun v).draws = s.draws := rfl
@[simp] theorem setDecRun_ret (s : State) (v : Nat) : (s.setDecRun v).ret = s.ret := rfl

@[simp] theorem setDecLen_head (s : State) (v : Nat) : (s.setDecLen v).head = s.head := rfl
@[simp] theorem setDecLen_tail (s : State) (v : Nat) : (s.setDecLen v).tail = s.tail := rfl
@[simp] theorem setDecLen_enc (s : State) (v : Nat) : (s.setDecLen v).enc = s.enc := rfl
@[simp] theorem setDecLen_mf (s : State) (v : Nat) : (s.setDecLen v).mf = s.mf := rfl
@[simp] theorem setDecLen_dec (s : State) (v : Nat) : (s.setDecLen v).dec = { s.dec with len := v } := rfl
@[simp] theorem setDecLen_cmd (s : State) (v : Nat) : (s.setDecLen v).cmd = s.cmd := rfl
@[simp] theorem setDecLen_level (s : State) (v : Nat) : (s.setDecLen v).level = s.level := rfl
@[simp] theorem setDecLen_inLen (s : State) (v : Nat) : (s.setDecLen v).inLen = s.inLen := rfl
@[simp] theorem setDecLen_outCap (s : State) (v : Nat) : (s.setDecLen v).outCap = s.outCap := rfl
@[simp] theorem setDecLen_status (s : State) (v : Nat) : (s.setDecLen v).status = s.status := rfl
@[simp] theorem setDecLen_result (s : State) (v : Nat) : (s.setDecLen v).result = s.result := rfl
@[simp] theorem setDecLen_inMem (s : State) (v : Nat) : (s.setDecLen v).inMem = s.inMem := rfl
@[simp] theorem setDecLen_outMem (s : State) (v : Nat) : (s.setDecLen v).outMem = s.outMem := rfl
@[simp] theorem setDecLen_inBase (s : State) (v : Nat) : (s.setDecLen v).inBase = s.inBase := rfl
@[simp] theorem setDecLen_outBase (s : State) (v : Nat) : (s.setDecLen v).outBase = s.outBase := rfl
@[simp] theorem setDecLen_dist0 (s : State) (v : Nat) : (s.setDecLen v).dist0 = s.dist0 := rfl
@[simp] theorem setDecLen_host (s : State) (v : Nat) : (s.setDecLen v).host = s.host := rfl
@[simp] theorem setDecLen_draws (s : State) (v : Nat) : (s.setDecLen v).draws = s.draws := rfl
@[simp] theorem setDecLen_ret (s : State) (v : Nat) : (s.setDecLen v).ret = s.ret := rfl

@[simp] theorem setDecDist_head (s : State) (v : BitVec 17) : (s.setDecDist v).head = s.head := rfl
@[simp] theorem setDecDist_tail (s : State) (v : BitVec 17) : (s.setDecDist v).tail = s.tail := rfl
@[simp] theorem setDecDist_enc (s : State) (v : BitVec 17) : (s.setDecDist v).enc = s.enc := rfl
@[simp] theorem setDecDist_mf (s : State) (v : BitVec 17) : (s.setDecDist v).mf = s.mf := rfl
@[simp] theorem setDecDist_dec (s : State) (v : BitVec 17) : (s.setDecDist v).dec = { s.dec with dist := v } := rfl
@[simp] theorem setDecDist_cmd (s : State) (v : BitVec 17) : (s.setDecDist v).cmd = s.cmd := rfl
@[simp] theorem setDecDist_level (s : State) (v : BitVec 17) : (s.setDecDist v).level = s.level := rfl
@[simp] theorem setDecDist_inLen (s : State) (v : BitVec 17) : (s.setDecDist v).inLen = s.inLen := rfl
@[simp] theorem setDecDist_outCap (s : State) (v : BitVec 17) : (s.setDecDist v).outCap = s.outCap := rfl
@[simp] theorem setDecDist_status (s : State) (v : BitVec 17) : (s.setDecDist v).status = s.status := rfl
@[simp] theorem setDecDist_result (s : State) (v : BitVec 17) : (s.setDecDist v).result = s.result := rfl
@[simp] theorem setDecDist_inMem (s : State) (v : BitVec 17) : (s.setDecDist v).inMem = s.inMem := rfl
@[simp] theorem setDecDist_outMem (s : State) (v : BitVec 17) : (s.setDecDist v).outMem = s.outMem := rfl
@[simp] theorem setDecDist_inBase (s : State) (v : BitVec 17) : (s.setDecDist v).inBase = s.inBase := rfl
@[simp] theorem setDecDist_outBase (s : State) (v : BitVec 17) : (s.setDecDist v).outBase = s.outBase := rfl
@[simp] theorem setDecDist_dist0 (s : State) (v : BitVec 17) : (s.setDecDist v).dist0 = s.dist0 := rfl
@[simp] theorem setDecDist_host (s : State) (v : BitVec 17) : (s.setDecDist v).host = s.host := rfl
@[simp] theorem setDecDist_draws (s : State) (v : BitVec 17) : (s.setDecDist v).draws = s.draws := rfl
@[simp] theorem setDecDist_ret (s : State) (v : BitVec 17) : (s.setDecDist v).ret = s.ret := rfl

@[simp] theorem setBest_head (s : State) (v : Nat) : (s.setBest v).head = s.head := rfl
@[simp] theorem setBest_tail (s : State) (v : Nat) : (s.setBest v).tail = s.tail := rfl
@[simp] theorem setBest_enc (s : State) (v : Nat) : (s.setBest v).enc = s.enc := rfl
@[simp] theorem setBest_mf (s : State) (v : Nat) : (s.setBest v).mf = { s.mf with bestLen := Word.ofNat v } := rfl
@[simp] theorem setBest_dec (s : State) (v : Nat) : (s.setBest v).dec = s.dec := rfl
@[simp] theorem setBest_cmd (s : State) (v : Nat) : (s.setBest v).cmd = s.cmd := rfl
@[simp] theorem setBest_level (s : State) (v : Nat) : (s.setBest v).level = s.level := rfl
@[simp] theorem setBest_inLen (s : State) (v : Nat) : (s.setBest v).inLen = s.inLen := rfl
@[simp] theorem setBest_outCap (s : State) (v : Nat) : (s.setBest v).outCap = s.outCap := rfl
@[simp] theorem setBest_status (s : State) (v : Nat) : (s.setBest v).status = s.status := rfl
@[simp] theorem setBest_result (s : State) (v : Nat) : (s.setBest v).result = s.result := rfl
@[simp] theorem setBest_inMem (s : State) (v : Nat) : (s.setBest v).inMem = s.inMem := rfl
@[simp] theorem setBest_outMem (s : State) (v : Nat) : (s.setBest v).outMem = s.outMem := rfl
@[simp] theorem setBest_inBase (s : State) (v : Nat) : (s.setBest v).inBase = s.inBase := rfl
@[simp] theorem setBest_outBase (s : State) (v : Nat) : (s.setBest v).outBase = s.outBase := rfl
@[simp] theorem setBest_dist0 (s : State) (v : Nat) : (s.setBest v).dist0 = s.dist0 := rfl
@[simp] theorem setBest_host (s : State) (v : Nat) : (s.setBest v).host = s.host := rfl
@[simp] theorem setBest_draws (s : State) (v : Nat) : (s.setBest v).draws = s.draws := rfl
@[simp] theorem setBest_ret (s : State) (v : Nat) : (s.setBest v).ret = s.ret := rfl

@[simp] theorem clobber_head (s : State) (a n : Nat) : (s.clobber a n).head = s.head := rfl
@[simp] theorem clobber_tail (s : State) (a n : Nat) : (s.clobber a n).tail = s.tail := rfl
@[simp] theorem clobber_enc (s : State) (a n : Nat) : (s.clobber a n).enc = s.enc := rfl
@[simp] theorem clobber_mf (s : State) (a n : Nat) : (s.clobber a n).mf = s.mf := rfl
@[simp] theorem clobber_dec (s : State) (a n : Nat) : (s.clobber a n).dec = s.dec := rfl
@[simp] theorem clobber_cmd (s : State) (a n : Nat) : (s.clobber a n).cmd = s.cmd := rfl
@[simp] theorem clobber_level (s : State) (a n : Nat) : (s.clobber a n).level = s.level := rfl
@[simp] theorem clobber_inLen (s : State) (a n : Nat) : (s.clobber a n).inLen = s.inLen := rfl
@[simp] theorem clobber_outCap (s : State) (a n : Nat) : (s.clobber a n).outCap = s.outCap := rfl
@[simp] theorem clobber_status (s : State) (a n : Nat) : (s.clobber a n).status = s.status := rfl
@[simp] theorem clobber_result (s : State) (a n : Nat) : (s.clobber a n).result = s.result := rfl
@[simp] theorem clobber_inMem (s : State) (a n : Nat) : (s.clobber a n).inMem = s.inMem := rfl
@[simp] theorem clobber_outMem (s : State) (a n : Nat) : (s.clobber a n).outMem = s.outMem.scramble a n s.draws := rfl
@[simp] theorem clobber_inBase (s : State) (a n : Nat) : (s.clobber a n).inBase = s.inBase := rfl
@[simp] theorem clobber_outBase (s : State) (a n : Nat) : (s.clobber a n).outBase = s.outBase := rfl
@[simp] theorem clobber_dist0 (s : State) (a n : Nat) : (s.clobber a n).dist0 = s.dist0 := rfl
@[simp] theorem clobber_host (s : State) (a n : Nat) : (s.clobber a n).host = s.host := rfl
@[simp] theorem clobber_draws (s : State) (a n : Nat) : (s.clobber a n).draws = s.draws + n := rfl
@[simp] theorem clobber_ret (s : State) (a n : Nat) : (s.clobber a n).ret = s.ret := rfl

@[simp] theorem endSearch_head (s : State) (m : MatchRegs) : (s.endSearch m).head = s.head := rfl
@[simp] theorem endSearch_tail (s : State) (m : MatchRegs) : (s.endSearch m).tail = s.tail := rfl
@[simp] theorem endSearch_enc (s : State) (m : MatchRegs) : (s.endSearch m).enc = s.enc := rfl
@[simp] theorem endSearch_mf (s : State) (m : MatchRegs) : (s.endSearch m).mf = m := rfl
@[simp] theorem endSearch_dec (s : State) (m : MatchRegs) : (s.endSearch m).dec = s.dec := rfl
@[simp] theorem endSearch_cmd (s : State) (m : MatchRegs) : (s.endSearch m).cmd = s.cmd := rfl
@[simp] theorem endSearch_level (s : State) (m : MatchRegs) : (s.endSearch m).level = s.level := rfl
@[simp] theorem endSearch_inLen (s : State) (m : MatchRegs) : (s.endSearch m).inLen = s.inLen := rfl
@[simp] theorem endSearch_outCap (s : State) (m : MatchRegs) : (s.endSearch m).outCap = s.outCap := rfl
@[simp] theorem endSearch_status (s : State) (m : MatchRegs) : (s.endSearch m).status = s.status := rfl
@[simp] theorem endSearch_result (s : State) (m : MatchRegs) : (s.endSearch m).result = s.result := rfl
@[simp] theorem endSearch_inMem (s : State) (m : MatchRegs) : (s.endSearch m).inMem = s.inMem := rfl
@[simp] theorem endSearch_outMem (s : State) (m : MatchRegs) : (s.endSearch m).outMem = s.outMem := rfl
@[simp] theorem endSearch_inBase (s : State) (m : MatchRegs) : (s.endSearch m).inBase = s.inBase := rfl
@[simp] theorem endSearch_outBase (s : State) (m : MatchRegs) : (s.endSearch m).outBase = s.outBase := rfl
@[simp] theorem endSearch_dist0 (s : State) (m : MatchRegs) : (s.endSearch m).dist0 = s.dist0 := rfl
@[simp] theorem endSearch_host (s : State) (m : MatchRegs) : (s.endSearch m).host = s.host := rfl
@[simp] theorem endSearch_draws (s : State) (m : MatchRegs) : (s.endSearch m).draws = s.draws + 8 := rfl
@[simp] theorem endSearch_ret (s : State) (m : MatchRegs) : (s.endSearch m).ret = s.ret := rfl

@[simp] theorem beginToken_head (s : State) (tag : Byte) : (s.beginToken tag).head = s.head := rfl
@[simp] theorem beginToken_tail (s : State) (tag : Byte) : (s.beginToken tag).tail = s.tail := rfl
@[simp] theorem beginToken_enc (s : State) (tag : Byte) : (s.beginToken tag).enc = s.enc := rfl
@[simp] theorem beginToken_mf (s : State) (tag : Byte) : (s.beginToken tag).mf = s.mf := rfl
@[simp] theorem beginToken_dec (s : State) (tag : Byte) : (s.beginToken tag).dec = 
    { s.dec with tag := tag, run := tagRunCode tag, len := (Config.freeBits 37 s.draws).toNat,
                 dist := Config.freeBits 17 (s.draws + 1) } := rfl
@[simp] theorem beginToken_cmd (s : State) (tag : Byte) : (s.beginToken tag).cmd = s.cmd := rfl
@[simp] theorem beginToken_level (s : State) (tag : Byte) : (s.beginToken tag).level = s.level := rfl
@[simp] theorem beginToken_inLen (s : State) (tag : Byte) : (s.beginToken tag).inLen = s.inLen := rfl
@[simp] theorem beginToken_outCap (s : State) (tag : Byte) : (s.beginToken tag).outCap = s.outCap := rfl
@[simp] theorem beginToken_status (s : State) (tag : Byte) : (s.beginToken tag).status = s.status := rfl
@[simp] theorem beginToken_result (s : State) (tag : Byte) : (s.beginToken tag).result = s.result := rfl
@[simp] theorem beginToken_inMem (s : State) (tag : Byte) : (s.beginToken tag).inMem = s.inMem := rfl
@[simp] theorem beginToken_outMem (s : State) (tag : Byte) : (s.beginToken tag).outMem = s.outMem := rfl
@[simp] theorem beginToken_inBase (s : State) (tag : Byte) : (s.beginToken tag).inBase = s.inBase := rfl
@[simp] theorem beginToken_outBase (s : State) (tag : Byte) : (s.beginToken tag).outBase = s.outBase := rfl
@[simp] theorem beginToken_dist0 (s : State) (tag : Byte) : (s.beginToken tag).dist0 = s.dist0 := rfl
@[simp] theorem beginToken_host (s : State) (tag : Byte) : (s.beginToken tag).host = s.host := rfl
@[simp] theorem beginToken_draws (s : State) (tag : Byte) : (s.beginToken tag).draws = s.draws + 2 := rfl
@[simp] theorem beginToken_ret (s : State) (tag : Byte) : (s.beginToken tag).ret = s.ret := rfl

@[simp] theorem forgetDec_head (s : State) : (s.forgetDec).head = s.head := rfl
@[simp] theorem forgetDec_tail (s : State) : (s.forgetDec).tail = s.tail := rfl
@[simp] theorem forgetDec_enc (s : State) : (s.forgetDec).enc = s.enc := rfl
@[simp] theorem forgetDec_mf (s : State) : (s.forgetDec).mf = s.mf := rfl
@[simp] theorem forgetDec_cmd (s : State) : (s.forgetDec).cmd = s.cmd := rfl
@[simp] theorem forgetDec_level (s : State) : (s.forgetDec).level = s.level := rfl
@[simp] theorem forgetDec_inLen (s : State) : (s.forgetDec).inLen = s.inLen := rfl
@[simp] theorem forgetDec_outCap (s : State) : (s.forgetDec).outCap = s.outCap := rfl
@[simp] theorem forgetDec_status (s : State) : (s.forgetDec).status = s.status := rfl
@[simp] theorem forgetDec_result (s : State) : (s.forgetDec).result = s.result := rfl
@[simp] theorem forgetDec_inMem (s : State) : (s.forgetDec).inMem = s.inMem := rfl
@[simp] theorem forgetDec_outMem (s : State) : (s.forgetDec).outMem = s.outMem := rfl
@[simp] theorem forgetDec_inBase (s : State) : (s.forgetDec).inBase = s.inBase := rfl
@[simp] theorem forgetDec_outBase (s : State) : (s.forgetDec).outBase = s.outBase := rfl
@[simp] theorem forgetDec_dist0 (s : State) : (s.forgetDec).dist0 = s.dist0 := rfl
@[simp] theorem forgetDec_host (s : State) : (s.forgetDec).host = s.host := rfl
@[simp] theorem forgetDec_draws (s : State) : (s.forgetDec).draws = s.draws + 6 := rfl
@[simp] theorem forgetDec_ret (s : State) : (s.forgetDec).ret = s.ret := rfl

@[simp] theorem forgetEnc_head (s : State) : (s.forgetEnc).head = s.head := rfl
@[simp] theorem forgetEnc_tail (s : State) : (s.forgetEnc).tail = s.tail := rfl
@[simp] theorem forgetEnc_dec (s : State) : (s.forgetEnc).dec = s.dec := rfl
@[simp] theorem forgetEnc_cmd (s : State) : (s.forgetEnc).cmd = s.cmd := rfl
@[simp] theorem forgetEnc_level (s : State) : (s.forgetEnc).level = s.level := rfl
@[simp] theorem forgetEnc_inLen (s : State) : (s.forgetEnc).inLen = s.inLen := rfl
@[simp] theorem forgetEnc_outCap (s : State) : (s.forgetEnc).outCap = s.outCap := rfl
@[simp] theorem forgetEnc_status (s : State) : (s.forgetEnc).status = s.status := rfl
@[simp] theorem forgetEnc_result (s : State) : (s.forgetEnc).result = s.result := rfl
@[simp] theorem forgetEnc_inMem (s : State) : (s.forgetEnc).inMem = s.inMem := rfl
@[simp] theorem forgetEnc_outMem (s : State) : (s.forgetEnc).outMem = s.outMem := rfl
@[simp] theorem forgetEnc_inBase (s : State) : (s.forgetEnc).inBase = s.inBase := rfl
@[simp] theorem forgetEnc_outBase (s : State) : (s.forgetEnc).outBase = s.outBase := rfl
@[simp] theorem forgetEnc_dist0 (s : State) : (s.forgetEnc).dist0 = s.dist0 := rfl
@[simp] theorem forgetEnc_host (s : State) : (s.forgetEnc).host = s.host := rfl
@[simp] theorem forgetEnc_draws (s : State) : (s.forgetEnc).draws = s.draws + 11 := rfl
@[simp] theorem forgetEnc_ret (s : State) : (s.forgetEnc).ret = s.ret := rfl

@[simp] theorem forgetResult_head (s : State) : (s.forgetResult).head = s.head := rfl
@[simp] theorem forgetResult_tail (s : State) : (s.forgetResult).tail = s.tail := rfl
@[simp] theorem forgetResult_enc (s : State) : (s.forgetResult).enc = s.enc := rfl
@[simp] theorem forgetResult_mf (s : State) : (s.forgetResult).mf = s.mf := rfl
@[simp] theorem forgetResult_dec (s : State) : (s.forgetResult).dec = s.dec := rfl
@[simp] theorem forgetResult_cmd (s : State) : (s.forgetResult).cmd = s.cmd := rfl
@[simp] theorem forgetResult_level (s : State) : (s.forgetResult).level = s.level := rfl
@[simp] theorem forgetResult_inLen (s : State) : (s.forgetResult).inLen = s.inLen := rfl
@[simp] theorem forgetResult_outCap (s : State) : (s.forgetResult).outCap = s.outCap := rfl
@[simp] theorem forgetResult_status (s : State) : (s.forgetResult).status = s.status := rfl
@[simp] theorem forgetResult_result (s : State) : (s.forgetResult).result = Config.freeBits 32 s.draws := rfl
@[simp] theorem forgetResult_inMem (s : State) : (s.forgetResult).inMem = s.inMem := rfl
@[simp] theorem forgetResult_outMem (s : State) : (s.forgetResult).outMem = s.outMem := rfl
@[simp] theorem forgetResult_inBase (s : State) : (s.forgetResult).inBase = s.inBase := rfl
@[simp] theorem forgetResult_outBase (s : State) : (s.forgetResult).outBase = s.outBase := rfl
@[simp] theorem forgetResult_dist0 (s : State) : (s.forgetResult).dist0 = s.dist0 := rfl
@[simp] theorem forgetResult_host (s : State) : (s.forgetResult).host = s.host := rfl
@[simp] theorem forgetResult_draws (s : State) : (s.forgetResult).draws = s.draws + 1 := rfl
@[simp] theorem forgetResult_ret (s : State) : (s.forgetResult).ret = s.ret := rfl

end Sys2Proof.Machine.State

/-! The exits of the commands, field by field. -/

namespace Sys2Proof.Machine

@[simp] theorem errorExit_head (s : State) : (errorExit s).head = s.head := by simp [errorExit]
@[simp] theorem errorExit_tail (s : State) : (errorExit s).tail = s.tail := by simp [errorExit]
@[simp] theorem errorExit_enc (s : State) : (errorExit s).enc = s.enc := by simp [errorExit]
@[simp] theorem errorExit_mf (s : State) : (errorExit s).mf = s.mf := by simp [errorExit]
@[simp] theorem errorExit_cmd (s : State) : (errorExit s).cmd = s.cmd := by simp [errorExit]
@[simp] theorem errorExit_level (s : State) : (errorExit s).level = s.level := by simp [errorExit]
@[simp] theorem errorExit_inLen (s : State) : (errorExit s).inLen = s.inLen := by simp [errorExit]
@[simp] theorem errorExit_outCap (s : State) : (errorExit s).outCap = s.outCap := by simp [errorExit]
@[simp] theorem errorExit_status (s : State) : (errorExit s).status = .done := by simp [errorExit]
@[simp] theorem errorExit_result (s : State) : (errorExit s).result = Config.ERR := by simp [errorExit]
@[simp] theorem errorExit_inMem (s : State) : (errorExit s).inMem = s.inMem := by simp [errorExit]
@[simp] theorem errorExit_outMem (s : State) : (errorExit s).outMem = s.outMem.scramble 0 (s.capN + 15) s.draws := by simp [errorExit]
@[simp] theorem errorExit_inBase (s : State) : (errorExit s).inBase = s.inBase := by simp [errorExit]
@[simp] theorem errorExit_outBase (s : State) : (errorExit s).outBase = s.outBase := by simp [errorExit]
@[simp] theorem errorExit_dist0 (s : State) : (errorExit s).dist0 = s.dist0 := by simp [errorExit]
@[simp] theorem errorExit_host (s : State) : (errorExit s).host = s.host := by simp [errorExit]
@[simp] theorem errorExit_draws (s : State) : (errorExit s).draws = s.draws + (s.capN + 15) + 6 := by simp [errorExit]
@[simp] theorem errorExit_ret (s : State) : (errorExit s).ret = s.ret := by simp [errorExit]

@[simp] theorem finishDecompress_head (s : State) : (finishDecompress s).head = s.head := by simp [finishDecompress]
@[simp] theorem finishDecompress_tail (s : State) : (finishDecompress s).tail = s.tail := by simp [finishDecompress]
@[simp] theorem finishDecompress_enc (s : State) : (finishDecompress s).enc = s.enc := by simp [finishDecompress]
@[simp] theorem finishDecompress_mf (s : State) : (finishDecompress s).mf = s.mf := by simp [finishDecompress]
@[simp] theorem finishDecompress_cmd (s : State) : (finishDecompress s).cmd = s.cmd := by simp [finishDecompress]
@[simp] theorem finishDecompress_level (s : State) : (finishDecompress s).level = s.level := by simp [finishDecompress]
@[simp] theorem finishDecompress_inLen (s : State) : (finishDecompress s).inLen = s.inLen := by simp [finishDecompress]
@[simp] theorem finishDecompress_outCap (s : State) : (finishDecompress s).outCap = s.outCap := by simp [finishDecompress]
@[simp] theorem finishDecompress_status (s : State) : (finishDecompress s).status = .done := by simp [finishDecompress]
@[simp] theorem finishDecompress_result (s : State) : (finishDecompress s).result = s.dec.op := by simp [finishDecompress]
@[simp] theorem finishDecompress_inMem (s : State) : (finishDecompress s).inMem = s.inMem := by simp [finishDecompress]
@[simp] theorem finishDecompress_outMem (s : State) : (finishDecompress s).outMem = s.outMem.scramble s.decOp 15 s.draws := by simp [finishDecompress]
@[simp] theorem finishDecompress_inBase (s : State) : (finishDecompress s).inBase = s.inBase := by simp [finishDecompress]
@[simp] theorem finishDecompress_outBase (s : State) : (finishDecompress s).outBase = s.outBase := by simp [finishDecompress]
@[simp] theorem finishDecompress_dist0 (s : State) : (finishDecompress s).dist0 = s.dist0 := by simp [finishDecompress]
@[simp] theorem finishDecompress_host (s : State) : (finishDecompress s).host = s.host := by simp [finishDecompress]
@[simp] theorem finishDecompress_draws (s : State) : (finishDecompress s).draws = s.draws + 15 + 6 := by simp [finishDecompress]
@[simp] theorem finishDecompress_ret (s : State) : (finishDecompress s).ret = s.ret := by simp [finishDecompress]

@[simp] theorem finishCompress_head (s : State) : (finishCompress s).head = s.head := by simp [finishCompress]
@[simp] theorem finishCompress_tail (s : State) : (finishCompress s).tail = s.tail := by simp [finishCompress]
@[simp] theorem finishCompress_dec (s : State) : (finishCompress s).dec = s.dec := by simp [finishCompress]
@[simp] theorem finishCompress_cmd (s : State) : (finishCompress s).cmd = s.cmd := by simp [finishCompress]
@[simp] theorem finishCompress_level (s : State) : (finishCompress s).level = s.level := by simp [finishCompress]
@[simp] theorem finishCompress_inLen (s : State) : (finishCompress s).inLen = s.inLen := by simp [finishCompress]
@[simp] theorem finishCompress_outCap (s : State) : (finishCompress s).outCap = s.outCap := by simp [finishCompress]
@[simp] theorem finishCompress_status (s : State) : (finishCompress s).status = .done := by simp [finishCompress]
@[simp] theorem finishCompress_result (s : State) : (finishCompress s).result = s.enc.op := by simp [finishCompress]
@[simp] theorem finishCompress_inMem (s : State) : (finishCompress s).inMem = s.inMem := by simp [finishCompress]
@[simp] theorem finishCompress_outMem (s : State) : (finishCompress s).outMem = s.outMem.scramble s.encOp 15 s.draws := by simp [finishCompress]
@[simp] theorem finishCompress_inBase (s : State) : (finishCompress s).inBase = s.inBase := by simp [finishCompress]
@[simp] theorem finishCompress_outBase (s : State) : (finishCompress s).outBase = s.outBase := by simp [finishCompress]
@[simp] theorem finishCompress_dist0 (s : State) : (finishCompress s).dist0 = s.dist0 := by simp [finishCompress]
@[simp] theorem finishCompress_host (s : State) : (finishCompress s).host = s.host := by simp [finishCompress]
@[simp] theorem finishCompress_draws (s : State) : (finishCompress s).draws = s.draws + 15 + 11 := by simp [finishCompress]
@[simp] theorem finishCompress_ret (s : State) : (finishCompress s).ret = s.ret := by simp [finishCompress]

end Sys2Proof.Machine
end

