-- ==== Sys2Proof/Laws/Ops.lean ====
section
/-! SUPPORT. One lemma per shared operation that says once everything it can do when it succeeds, and when it succeeds;
proofs about the meanings cite these and do not unfold the operations. -/

namespace Sys2Proof.Machine

/-! ## Outcomes -/

/-- An instruction that ends in a next state either finished, or raised an error and took the error exit (R241). -/
theorem conclude_next {s t : State} {r : Except Stop State} (h : conclude s r = .next t) :
    r = .ok t ∨ ∃ c, r = .error (.raise c) ∧ t = errorExit s := by
  unfold conclude at h
  split at h
  · cases h; exact .inl rfl
  · next c => cases h; exact .inr ⟨c, rfl, rfl⟩
  · cases h
  · cases h

@[simp] theorem conclude_ok (s t : State) : conclude s (.ok t) = .next t := rfl
@[simp] theorem conclude_raise (s : State) (c : Cause) : conclude s (.error (.raise c)) = .next (errorExit s) := rfl

theorem andThen_next {r : Result} {f : State → Result} {u : State} (h : andThen r f = .next u) :
    ∃ t, r = .next t ∧ f t = .next u := by
  unfold andThen at h
  split at h
  · next t => exact ⟨t, rfl, h⟩
  · cases h
  · cases h

/-- Whatever every busy step keeps, the run of the busy core keeps. -/
theorem runBusy_keeps {f : State → Result} {P : State → Prop}
    (hf : ∀ s t, s.status = .busy → P s → f s = .next t → P t) :
    ∀ {n : Nat} {s t : State}, P s → runBusy f n s = .next t → P t
  | 0, s, t, hs, h => by cases h; exact hs
  | n + 1, s, t, hs, h => by
    unfold runBusy at h
    split at h
    · next hb =>
      obtain ⟨u, hu, hr⟩ := andThen_next h
      exact runBusy_keeps hf (hf s u hb hs hu) hr
    · cases h; exact hs
    · cases h; exact hs

/-- A core that is not busy any more is left as it is. -/
theorem runBusy_idle {f : State → Result} {n : Nat} {s : State} (h : s.status ≠ .busy) : runBusy f n s = .next s := by
  cases n with
  | zero => rfl
  | succ n => cases hs : s.status <;> simp_all [runBusy]

/-! ## Block copies (R205, R206) -/

theorem wildcopyOp_ok {src : Space} {d s n : Nat} {st t : State} (h : wildcopyOp src d s n st = .ok t) :
    ∃ out, copyLoop st.inMem src n d s st.outMem = .ok out ∧
      t = (st.withOut out).clobber (d + n) (wildExtent n - n) := by
  unfold wildcopyOp at h
  split at h
  · cases h
  · next out ho => cases h; exact ⟨out, ho, rfl⟩

theorem bytecopyOp_ok {d s n : Nat} {st t : State} (h : bytecopyOp d s n st = .ok t) :
    ∃ out, copyLoop st.inMem .output n d s st.outMem = .ok out ∧ t = st.withOut out := by
  unfold bytecopyOp at h
  split at h
  · cases h
  · next out ho => cases h; exact ⟨out, ho, rfl⟩

/-- A block copy succeeds where its source and its destination exist. -/
theorem copyLoop_succeeds {inM : Memory} {src : Space} : ∀ {n d s : Nat} {out : Memory},
    (∀ k, k < n → ((sourceOf inM src out).byte? (s + k)).isSome = true) →
    (∀ k, k < n → (out.byte? (d + k)).isSome = true) → ∃ out', copyLoop inM src n d s out = .ok out'
  | 0, d, s, out, _, _ => ⟨out, rfl⟩
  | n + 1, d, s, out, hs, hd => by
    obtain ⟨b, hb⟩ := Option.isSome_iff_exists.1 (hs 0 (by omega))
    have hset : (out.set? d b).isSome = true := by
      rw [Memory.set?_isSome]
      exact hd 0 (by omega)
    obtain ⟨o, ho⟩ := Option.isSome_iff_exists.1 hset
    have hsame : ∀ a, (o.byte? a).isSome = (out.byte? a).isSome := fun a => by
      rw [Bool.eq_iff_iff, Memory.byte?_isSome_iff_mem, Memory.byte?_isSome_iff_mem, Memory.addrs_set? ho]
    have hsrc : ∀ a, ((sourceOf inM src o).byte? a).isSome = ((sourceOf inM src out).byte? a).isSome := fun a => by
      cases src
      · rfl
      · exact hsame a
    obtain ⟨out', h⟩ := copyLoop_succeeds (n := n) (d := d + 1) (s := s + 1) (out := o)
      (fun k hk => by
        rw [hsrc, show s + 1 + k = s + (k + 1) by omega]
        exact hs (k + 1) (by omega))
      (fun k hk => by
        rw [hsame, show d + 1 + k = d + (k + 1) by omega]
        exact hd (k + 1) (by omega))
    refine ⟨out', ?_⟩
    simp only [Nat.add_zero] at hb
    simp only [copyLoop, hb, ho, h]

/-- WILDCOPY leaves every byte outside its permitted extent alone (R205). -/
theorem wildcopyOp_outside {src : Space} {d s n a : Nat} {st t : State} (h : wildcopyOp src d s n st = .ok t)
    (ha : a < d ∨ d + wildExtent n ≤ a) : t.outMem.byte? a = st.outMem.byte? a := by
  obtain ⟨out, ho, rfl⟩ := wildcopyOp_ok h
  have hE : n ≤ wildExtent n := by unfold wildExtent; omega
  simp only [State.clobber_outMem, State.withOut_outMem]
  rw [Memory.byte?_scramble_outside (by omega), copyLoop_outside ho (by omega)]

/-! ## Emission -/

theorem putBytes_ok {bs : List Byte} {s t : State} (h : putBytes bs s = .ok t) :
    ∃ out, s.outMem.setBytes? s.encOp bs = some out ∧ t = (s.withOut out).setEncOp (s.encOp + bs.length) := by
  unfold putBytes at h
  split at h
  · cases h
  · next out ho => cases h; exact ⟨out, ho, rfl⟩

/-! ## Match Finder and Encoder parts -/

/-- INSERT (R132) changes one entry of each table and nothing else. -/
theorem insertOp_ok {q : Nat} {s t : State} (h : insertOp q s = .ok t) :
    q < s.inN ∧ ∃ k, hashAt s.inMem q = some k ∧
      t = (s.withTail (s.tail.set (q % 131072) (s.head.get k.toNat))).withHead (s.head.set k.toNat (Word.ofNat q)) := by
  unfold insertOp at h
  split at h
  · cases h
  · next hq =>
    split at h
    · cases h
    · next k hk => cases h; exact ⟨by omega, k, hk, rfl⟩

theorem insertOp_succeeds {q : Nat} {s : State} {k : BitVec 18} (hq : q < s.inN) (hk : hashAt s.inMem q = some k) :
    insertOp q s =
      .ok ((s.withTail (s.tail.set (q % 131072) (s.head.get k.toNat))).withHead (s.head.set k.toNat (Word.ofNat q))) := by
  unfold insertOp
  rw [if_neg (by omega), hk]

/-- FIND_MATCH (R134) writes only the Match Finder's registers. -/
theorem findMatchOp_ok {p : Nat} {s t : State} {r : Found} (h : findMatchOp p s = .ok (r, t)) :
    p < s.inN ∧ ∃ m, t = s.endSearch m := by
  unfold findMatchOp at h
  split at h
  · cases h
  · split at h
    · cases h; exact ⟨by omega, _, rfl⟩
    · split at h
      · cases h
      · dsimp only at h
        split at h <;> cases h <;> exact ⟨by omega, _, rfl⟩

/-- PROBE (R138) writes only the Match Finder's registers, and keeps `best_len` and `dist`. -/
theorem probeOp_ok {x n : Nat} {s t : State} {b : Bool} (h : probeOp x n s = .ok (b, t)) :
    ∃ m, t = s.endSearch m ∧ m.bestLen = s.mf.bestLen ∧ m.dist = s.mf.dist := by
  unfold probeOp at h
  split at h
  · cases h; exact ⟨probeRegs s, rfl, rfl, rfl⟩
  · split at h
    · cases h
    · cases h; exact ⟨_, rfl, rfl, rfl⟩

/-- No register carries a value over into a FIND_MATCH (R22). -/
theorem findMatchOp_withMf (p : Nat) (s : State) (m : MatchRegs) : findMatchOp p (s.withMf m) = findMatchOp p s := rfl

/-- Only `best_len` and `dist` are carried through a PROBE (R22). -/
theorem probeOp_withMf (x n : Nat) {s : State} {m : MatchRegs} (hb : m.bestLen = s.mf.bestLen)
    (hd : m.dist = s.mf.dist) : probeOp x n (s.withMf m) = probeOp x n s := by
  have h : probeRegs (s.withMf m) = probeRegs s := by
    unfold probeRegs
    rw [← hb, ← hd]
    rfl
  unfold probeOp
  rw [h]
  rfl

theorem suppressOp_cases (s : State) :
    (s.bestN = 4 ∧ 135 ≤ s.runN ∧ suppressOp s = s.setBest 0) ∨ (¬(s.bestN = 4 ∧ 135 ≤ s.runN) ∧ suppressOp s = s) := by
  by_cases h : s.bestN = 4 ∧ 135 ≤ s.runN
  · exact .inl ⟨h.1, h.2, by simp [suppressOp, suppressed, dropMatch, h.1, h.2]⟩
  · refine .inr ⟨h, ?_⟩
    have : suppressed s = false := by
      simp only [suppressed, Bool.and_eq_false_iff, decide_eq_false_iff_not]
      by_cases hb : s.bestN = 4
      · exact .inr fun hr => h ⟨hb, hr⟩
      · exact .inl hb
    simp [suppressOp, this]

/-- LAZY (R164) writes only the Match Finder's registers; the match stays or is given up. -/
theorem lazyOp_ok {s t : State} (h : lazyOp s = .ok t) :
    ∃ m k, t = (s.withMf m).withDraws k ∧ m.dist = s.mf.dist ∧ (m.bestLen = s.mf.bestLen ∨ m.bestLen = 0) := by
  unfold lazyOp at h
  split at h
  · split at h
    · cases h
    · next u hu =>
      cases h
      obtain ⟨m, rfl, -, hd⟩ := probeOp_ok hu
      exact ⟨{ m with bestLen := 0 }, _, rfl, hd, .inr rfl⟩
    · next u hu =>
      obtain ⟨m, rfl, hb, hd⟩ := probeOp_ok hu
      split at h
      · cases h
      · next v hv =>
        cases h
        obtain ⟨m', rfl, -, hd'⟩ := probeOp_ok hv
        exact ⟨{ m' with bestLen := 0 }, _, rfl, hd'.trans hd, .inr rfl⟩
      · next v hv =>
        cases h
        obtain ⟨m', rfl, hb', hd'⟩ := probeOp_ok hv
        exact ⟨m', _, rfl, hd'.trans hd, .inl (hb'.trans hb)⟩
  · cases h; exact ⟨s.mf, s.draws, rfl, rfl, .inl rfl⟩

/-! ## Decoder parts -/

/-- FETCH (R202). -/
theorem fetchOp_ok {s t : State} {b : Byte} (h : fetchOp s = .ok (b, t)) :
    s.ipN < s.inN ∧ s.inMem.byte? s.ipN = some b ∧ t = s.setIp (s.ipN + 1) := by
  unfold fetchOp at h
  split at h
  · cases h
  · next hlt =>
    split at h
    · cases h
    · next b' hb => cases h; exact ⟨by omega, hb, rfl⟩

/-- The checks of a literal run, passed (R203). -/
theorem checkRun_ok {run : Nat} {s : State} (h : checkRun run s = .ok ()) :
    s.decOp + run ≤ s.capN ∧ s.ipN + run ≤ s.inN := by
  unfold checkRun at h
  split at h
  · cases h
  · split at h
    · cases h
    · constructor <;> omega

/-- The checks before the distance field, passed (R207). -/
theorem checkMatch_ok {len : Nat} {s : State} (h : checkMatch len s = .ok ()) :
    s.decOp + len ≤ s.capN ∧ s.ipN + 2 ≤ s.inN := by
  unfold checkMatch at h
  split at h
  · cases h
  · split at h
    · cases h
    · constructor <;> omega

/-- MATCHCOPY (R208): one of the two copies, or the zero distance under `selfcopy`. -/
theorem matchcopyOp_ok {len : Nat} {dist : BitVec 17} {s t : State} (h : matchcopyOp len dist s = .ok t) :
    dist.toNat ≤ s.decOp ∧
      ((4 ≤ dist.toNat ∧ wildcopyOp .output s.decOp (s.decOp - dist.toNat) len s = .ok t) ∨
       (1 ≤ dist.toNat ∧ dist.toNat < 4 ∧ bytecopyOp s.decOp (s.decOp - dist.toNat) len s = .ok t) ∨
       (dist.toNat = 0 ∧ s.dist0 = .selfcopy ∧ t = s.clobber s.decOp len)) := by
  unfold matchcopyOp at h
  split at h
  · cases h
  · next hle =>
    refine ⟨by omega, ?_⟩
    split at h
    · next h4 => exact .inl ⟨h4, h⟩
    · next h4 =>
      split at h
      · next h1 => exact .inr (.inl ⟨h1, by omega, h⟩)
      · next h1 =>
        cases hd : s.dist0 with
        | selfcopy =>
          rw [hd] at h
          cases h
          exact .inr (.inr ⟨by omega, rfl, rfl⟩)
        | error =>
          rw [hd] at h
          cases h

/-- The end of a match phase (R207): the range test passed, the copy made, `op` moved on. -/
theorem matchTail_ok {len : Nat} {dist : BitVec 17} {s t : State} (h : matchTail len dist s = .ok t) :
    dist.toNat ≤ s.decOp ∧ ∃ u, matchcopyOp len dist ((s.setIp (s.ipN + 2)).setDecDist dist) = .ok u ∧
      t = u.setDecOp (s.decOp + len) := by
  unfold matchTail at h
  dsimp only at h
  split at h
  · cases h
  · next hd =>
    split at h
    · cases h
    · next u hu =>
      cases h
      refine ⟨?_, u, hu, rfl⟩
      simp only [State.decOp, State.setDecDist_dec, State.setIp_dec] at hd
      simp only [State.decOp]
      omega

/-- The literal phase of a token (R203): the checks passed, the literals stored, the overrun drawn, both cursors
moved on. -/
theorem tokenLits_ok {lits : List Byte} {s t : State} (h : tokenLits lits s = .ok t) :
    s.decOp + lits.length ≤ s.capN ∧ s.ipN + lits.length ≤ s.inN ∧
      ∃ out, s.outMem.setBytes? s.decOp lits = some out ∧
        t = advanceRun lits.length
          (((s.setDecRun lits.length).withOut out).clobber (s.decOp + lits.length)
            (wildExtent lits.length - lits.length)) := by
  unfold tokenLits at h
  dsimp only at h
  split at h
  · cases h
  · next hc =>
    have hc := checkRun_ok hc
    split at h
    · cases h
    · next out ho =>
      cases h
      exact ⟨hc.1, hc.2, out, ho, rfl⟩

/-- The match phase of a token (R207). -/
theorem tokenMatch_ok {len : Nat} {dist : BitVec 17} {s t : State} (h : tokenMatch len dist s = .ok t) :
    s.decOp + len ≤ s.capN ∧ s.ipN + 2 ≤ s.inN ∧ matchTail len dist (s.setDecLen len) = .ok t := by
  unfold tokenMatch at h
  dsimp only at h
  split at h
  · cases h
  · next hc =>
    have hc := checkMatch_ok hc
    exact ⟨hc.1, hc.2, h⟩

theorem phases_ok {r : Except Stop State} {f : State → Except Stop State} {u : State} (h : phases r f = .ok u) :
    ∃ t, r = .ok t ∧ f t = .ok u := by
  unfold phases at h
  split at h
  · cases h
  · next t => exact ⟨t, rfl, h⟩

/-- Only the cursors are carried into a token (R23). -/
theorem takeTag_withDec (tag : Byte) {s : State} {d : DecRegs} (hi : d.ip = s.dec.ip) (ho : d.op = s.dec.op) :
    takeTag tag (s.withDec d) = takeTag tag s := by
  cases s
  cases d
  simp only at hi ho
  subst hi ho
  rfl

/-- How an instruction ends does not depend on the Decoder's registers at its start (R244). -/
theorem conclude_withDec (r : Except Stop State) (s : State) (d : DecRegs) : conclude (s.withDec d) r = conclude s r := by
  cases r with
  | ok t => rfl
  | error e => cases e <;> rfl

end Sys2Proof.Machine
end

