-- ==== Sys2Proof/Laws/PerInstr.lean ====
section
/-! SUPPORT. Per-instruction family TokenLength: an encoding has exactly the byte length of R100. -/

namespace Sys2Proof.Laws.TokenLength

/-- If an instruction has an encoding, its length is the instruction's byte length (R100). -/
def Statement (i : Instr) : Prop := ∀ bs, encode i = some bs → bs.length = i.byteLength

theorem dist16_length (dist : BitVec 17) : (dist16 dist).length = 2 := rfl

theorem runVar_length (lits : List Byte) : (runVar lits).length = vlen (lits.length - 7) := rfl

theorem compress : Statement .compress := fun _ h => nomatch h
theorem decompress : Statement .decompress := fun _ h => nomatch h
theorem mX (lenVar : Nat) (dist : BitVec 17) : Statement (.mX lenVar dist) := by
  rintro bs h; cases h
  simp [Instr.byteLength, dist16_length, vlen]; omega
theorem mS (lenCode : BitVec 4) (dist : BitVec 17) : Statement (.mS lenCode dist) := by
  rintro bs h; cases h; rfl
theorem lmXX (lits : List Byte) (lenVar : Nat) (dist : BitVec 17) : Statement (.lmXX lits lenVar dist) := by
  rintro bs h; cases h
  simp [Instr.byteLength, dist16_length, runVar_length, vlen]; omega
theorem lmXS (lits : List Byte) (lenCode : BitVec 4) (dist : BitVec 17) : Statement (.lmXS lits lenCode dist) := by
  rintro bs h; cases h
  simp [Instr.byteLength, dist16_length, runVar_length]; omega
theorem lmSX (lits : List Byte) (lenVar : Nat) (dist : BitVec 17) : Statement (.lmSX lits lenVar dist) := by
  rintro bs h; cases h
  simp [Instr.byteLength, dist16_length, vlen]; omega
theorem lmSS (lits : List Byte) (lenCode : BitVec 4) (dist : BitVec 17) : Statement (.lmSS lits lenCode dist) := by
  rintro bs h; cases h
  simp [Instr.byteLength, dist16_length]; omega
theorem lX (low : BitVec 5) (lits : List Byte) : Statement (.lX low lits) := by
  rintro bs h; cases h
  simp [Instr.byteLength, runVar_length]; omega
theorem lS (low : BitVec 5) (lits : List Byte) : Statement (.lS low lits) := by
  rintro bs h; cases h
  simp [Instr.byteLength]; omega
theorem hash (x : Nat) : Statement (.hash x) := fun _ h => nomatch h
theorem insert (q : Nat) : Statement (.insert q) := fun _ h => nomatch h
theorem findMatch (p : Nat) : Statement (.findMatch p) := fun _ h => nomatch h
theorem probe (x targetLen : Nat) : Statement (.probe x targetLen) := fun _ h => nomatch h
theorem startCompress : Statement .startCompress := fun _ h => nomatch h
theorem decidePos : Statement .decidePos := fun _ h => nomatch h
theorem suppress : Statement .suppress := fun _ h => nomatch h
theorem lazy : Statement .lazy := fun _ h => nomatch h
theorem emitMatch : Statement .emitMatch := fun _ h => nomatch h
theorem emitvar (x : Nat) : Statement (.emitvar x) := fun _ h => nomatch h
theorem accept : Statement .accept := fun _ h => nomatch h
theorem literal : Statement .literal := fun _ h => nomatch h
theorem emitFinal : Statement .emitFinal := fun _ h => nomatch h
theorem varintEnc (x : Nat) : Statement (.varintEnc x) := fun _ h => nomatch h
theorem varintDec (bytes : List Byte) : Statement (.varintDec bytes) := fun _ h => nomatch h
theorem fetch : Statement .fetch := fun _ h => nomatch h
theorem decvar : Statement .decvar := fun _ h => nomatch h
theorem litphase : Statement .litphase := fun _ h => nomatch h
theorem matchphase : Statement .matchphase := fun _ h => nomatch h
theorem matchcopy (len : Nat) (dist : BitVec 17) : Statement (.matchcopy len dist) := fun _ h => nomatch h
theorem wildcopy (dspace : Space) (d : Nat) (sspace : Space) (s n : Nat) : Statement (.wildcopy dspace d sspace s n) :=
  fun _ h => nomatch h
theorem bytecopy (d s n : Nat) : Statement (.bytecopy d s n) := fun _ h => nomatch h

end Sys2Proof.Laws.TokenLength
end

