-- ==== Sys2Proof/Tests/Slice0.lean ====
section
/-! SUPPORT. The model's own tests. Expected values are those of spec/95_test_vectors.md (V and P numbers) or worked by
hand from the rules; the second half shows, for every statement with hypotheses, a state that meets them. -/

namespace Sys2Proof.Tests

open Sys2Proof Sys2Proof.Machine Sys2Proof.Safety

set_option maxRecDepth 20000

/-! ## Helpers -/

/-- A core whose host lent `inp` (pad bytes 55) and an OUT of capacity `cap` filled with EE, START pending. -/
def at_ (cmd : BitVec 1) (level : BitVec 4) (inp : List Byte) (cap : Nat) : State :=
  { State.reset with
    cmd := cmd, level := level, inLen := Word.ofNat inp.length, outCap := Word.ofNat cap,
    inMem := Memory.ofBytes 0 (inp ++ List.replicate 16 0x55), outMem := Memory.ofBytes 0 (List.replicate (cap + 16) 0xEE),
    inBase := 0, outBase := inp.length + 16, host := [.start] }

/-- ASCII bytes. -/
def str (s : String) : List Byte := s.toList.map fun c => BitVec.ofNat 8 c.toNat

/-- A running DECOMPRESS with bytes `done` already written. -/
def dec (inp : List Byte) (cap ip : Nat) (done : List Byte) (tag : Byte) : State :=
  { at_ 1 1 inp cap with
    status := .busy, dec := ⟨Word.ofNat ip, Word.ofNat done.length, tag, 0, 0, 0⟩,
    outMem := Memory.ofBytes 0 (done ++ List.replicate (cap + 16 - done.length) 0xEE), host := [] }

/-- A running COMPRESS at position `p` with `run` pending literals, output cursor `op`, and a match in the registers. -/
def enc (level : BitVec 4) (inp : List Byte) (cap p run op best dist : Nat) : State :=
  { at_ 0 level inp cap with
    status := .busy, enc := ⟨Word.ofNat p, Word.ofNat run, Word.ofNat op⟩,
    mf := ⟨0, 0, 0, 0, Word.ofNat best, Word.ofNat dist, 0, 0⟩, host := [] }

/-- A test on the next state; false of a fault or a refusal. -/
def onNext (r : Result) (f : State → Bool) : Bool :=
  match r with
  | .next t => f t
  | .fault _ => false
  | .refused _ => false

/-- The next state, the reset state where there is none. -/
def nextOf (r : Result) : State :=
  match r with
  | .next t => t
  | .fault _ => State.reset
  | .refused _ => State.reset

theorem next_of {r : Result} (h : onNext r (fun _ => true) = true) : r = .next (nextOf r) := by
  cases r with
  | next t => rfl
  | fault e => cases h
  | refused e => cases h

/-- RESULT as a signed number, STATUS DONE, and the first bytes of OUT. -/
def ends (r : Result) (result : Int) (out : List Byte) : Bool :=
  onNext r fun t => decide (t.status = .done) && decide (t.result.toInt = result) &&
    decide (t.outMem.slice 0 out.length = some out)

/-- `n` instructions of insertion from position 0 on, on a fresh COMPRESS. -/
def inserted (n : Nat) (s : State) : State :=
  nextOf (inOrder (Instr.startCompress :: (List.range n).map Instr.insert) s)

/-! ## WellFormed refuses ill-formed terms -/

theorem test_wf_lenCode15 : (Instr.mS 15 1).wf = false := by decide
theorem test_wf_lenVar_too_large : (Instr.mX 34630287488 1).wf = false := by decide
theorem test_wf_short_run_of_seven : (Instr.lmSS [0, 1, 2, 3, 4, 5, 6] 0 1).wf = false := by decide
theorem test_wf_short_run_empty : (Instr.lS 0 []).wf = false := by decide
theorem test_wf_long_run_of_six : (Instr.lX 0 [0, 1, 2, 3, 4, 5]).wf = false := by decide
theorem test_wf_lmSX_empty : (Instr.lmSX [] 0 1).wf = false := by decide
theorem test_wf_lmXS_short : (Instr.lmXS [0] 0 1).wf = false := by decide
theorem test_wf_lmXX_short : (Instr.lmXX [0] 0 1).wf = false := by decide
theorem test_wf_probe_four : (Instr.probe 1 4).wf = false := by decide
theorem test_wf_emitvar : (Instr.emitvar 34630287488).wf = false := by decide
theorem test_wf_varintEnc : (Instr.varintEnc 34630287488).wf = false := by decide
theorem test_wf_varintDec_cut : (Instr.varintDec [0x80]).wf = false := by decide
theorem test_wf_varintDec_tail : (Instr.varintDec [0x00, 0x01]).wf = false := by decide
theorem test_wf_matchcopy_three : (Instr.matchcopy 3 1).wf = false := by decide
theorem test_wf_wildcopy_into_in : (Instr.wildcopy .input 0 .input 0 1).wf = false := by decide
theorem test_wf_wildcopy_close : (Instr.wildcopy .output 3 .output 0 1).wf = false := by decide
theorem test_wf_wildcopy_empty : (Instr.wildcopy .output 4 .output 0 0).wf = false := by decide
theorem test_wf_bytecopy_four : (Instr.bytecopy 4 0 1).wf = false := by decide
theorem test_wf_bytecopy_zero_distance : (Instr.bytecopy 1 1 1).wf = false := by decide
theorem test_wf_bytecopy_empty : (Instr.bytecopy 1 0 0).wf = false := by decide

/-! ## Words written out from 30_encoding.md R91 to R100, R103, R104 -/

/-- tag `000 0 0000`, distance 9 (R105's `M 4 9`). -/
theorem test_decode_mS : decode [0x00, 0x09, 0x00] = .ok (.mS 0 9, []) := by decide
/-- tag `000 1 1110`: length 18, distance 65536 + 0x1170 (R99, V69). -/
theorem test_decode_mS_distHi : decode [0x1E, 0x70, 0x11] = .ok (.mS 14 70000, []) := by decide
/-- tag `000 0 1111`, length varint `80 00` = 128 (V23). -/
theorem test_decode_mX : decode [0x0F, 0x80, 0x00, 0x01, 0x00] = .ok (.mX 128 1, []) := by decide
/-- tag `100 0 1000` (V5). -/
theorem test_decode_lmSS : decode [0x88, 0x41, 0x42, 0x43, 0x44, 0x04, 0x00] =
    .ok (.lmSS [0x41, 0x42, 0x43, 0x44] 8 4, []) := by decide
/-- tag `001 0 1111` (V84). -/
theorem test_decode_lmSX : decode [0x2F, 0x41, 0x04, 0x01, 0x00] = .ok (.lmSX [0x41] 4 1, []) := by decide
/-- tag `111 0 0000`, run varint 00 (V85). -/
theorem test_decode_lmXS : decode ([0xE0, 0x00] ++ str "0123456" ++ [0x07, 0x00]) =
    .ok (.lmXS (str "0123456") 0 7, []) := by decide
/-- tag `111 0 1111`, run varint 00, length varint 00 behind the literals (V86). -/
theorem test_decode_lmXX : decode ([0xEF, 0x00] ++ str "0123456" ++ [0x00, 0x07, 0x00]) =
    .ok (.lmXX (str "0123456") 0 7, []) := by decide
/-- tag `001 1 1111`, the stream ends behind the literal: low bits kept and ignored (V72). -/
theorem test_decode_lS : decode [0x3F, 0x41] = .ok (.lS 31 [0x41], []) := by decide
/-- tag `111 0 0000`, run varint 01 (V76). -/
theorem test_decode_lX : decode ([0xE0, 0x01] ++ str "ABCDEFGH") = .ok (.lX 0 (str "ABCDEFGH"), []) := by decide
/-- The same tag in the middle of a stream is an LM token: V101's second token is a distance field. -/
theorem test_decode_not_final : decode [0x20, 0x41, 0x20, 0x41] = .ok (.lmSS [0x41] 0 16672, []) := by decide
theorem test_decode_empty : decode [] = .error .noToken := by decide
/-- V90, V106, V103, V91, V92. -/
theorem test_decode_cut :
    decode [0xE0] = .error .fieldMissing ∧ decode [0xE0, 0x80] = .error .fieldMissing ∧
    decode [0x2F, 0x41, 0x00] = .error .fieldMissing ∧ decode [0x20] = .error .literalsMissing ∧
    decode [0x41, 0x41] = .error .literalsMissing := by decide
theorem test_decodeCmd : decodeCmd 0 = .compress ∧ decodeCmd 1 = .decompress ∧
    encodeCmd .compress = some 0 ∧ encodeCmd .decompress = some 1 := by decide
/-- R105's examples and V69's tag and distance bytes. -/
theorem test_encode :
    encode (assembleMatch [0x41] 7 1) = some [0x23, 0x41, 0x01, 0x00] ∧
    encode (assembleFinal [0x41, 0x41, 0x41, 0x41]) = some [0x80, 0x41, 0x41, 0x41, 0x41] ∧
    encode (assembleMatch [] 4 9) = some [0x00, 0x09, 0x00] ∧
    encode (assembleMatch [] 19 70000) = some [0x1F, 0x00, 0x70, 0x11] := by decide
/-- V56: a 9-byte run, varint 02. -/
theorem test_encode_long_run : encode (assembleMatch (str "abcdefgh1") 4 9) =
    some ([0xE0, 0x02] ++ str "abcdefgh1" ++ [0x09, 0x00]) := by decide
/-- V20, V23, V27, V28, V31, V33, V36. -/
theorem test_varint :
    varintEnc 0 = [0x00] ∧ varintEnc 128 = [0x80, 0x00] ∧ varintEnc 16511 = [0xFF, 0x7F] ∧
    varintDec [0x80, 0x80, 0x00] = some (16512, []) ∧ varintDec [0x80, 0x80, 0x80, 0x00] = some (2113664, []) ∧
    varintDec [0x80, 0x80, 0x80, 0x80, 0x00] = some (270549120, []) ∧
    varintDec [0xFF, 0xFF, 0xFF, 0xFF, 0x7F] = some (34630287487, []) := by decide
/-- V41: no sixth byte is read. V43. -/
theorem test_varint_five_bytes :
    varintDec [0xFF, 0xFF, 0xFF, 0xFF, 0xFF, 0x01] = some (68990025855, [0x01]) ∧ varintDec [0x80] = none := by decide

/-! ## The table's words and the placed words -/

theorem test_table_word : decodeTableWord 8 0 = some .compress ∧ decodeTableWord 8 1 = some .decompress ∧
    decodeTableWord 24 0x000900 = some (.mS 0 9) ∧ decodeTableWord 8 0x1F = some (.mX 0 65536) ∧
    decodeTableWord 16 0x4123 = some (.lmSS [0x41] 3 0) := by decide
/-- A placed command runs as the first instruction after reset: the empty input gives the empty stream (V1). -/
theorem test_placed_command : ends (step (State.reset.withFetchWord 8 0)) 0 [] = true ∧
    ends (step (State.reset.withFetchWord 8 1)) 0 [] = true := by decide
/-- A placed token runs: one literal, then four bytes at distance 0, unspecified under `selfcopy` (P6). -/
theorem test_placed_token : onNext (step (State.reset.withFetchWord 8 0x20)) (fun t =>
    decide (t.ipN = 4) && decide (t.decOp = 5) && decide (t.status = .busy)) = true := by decide

/-! ## Reset -/

theorem test_reset : State.reset.status = .idle ∧ State.reset.inMem.wf = true ∧ State.reset.outMem.wf = true ∧
    State.reset.head.wf 262144 = true ∧ State.reset.tail.wf 131072 = true := by decide

/-! ## One step each -/

/-- V4, level 9. -/
theorem test_compress_V4 : ends (step (at_ 0 9 (str "AAAAAAAA") 24)) 4 [0x23, 0x41, 0x01, 0x00] = true := by decide
/-- V60: the lazy rejection at level 9. -/
theorem test_compress_V60 : ends (step (at_ 0 9 (str "abcdXbcdefgYabcdefg") 36)) 17
    ([0xE2, 0x06] ++ str "abcdXbcdefgYa" ++ [0x08, 0x00]) = true := by decide
/-- P1. -/
theorem test_decompress_P1 :
    ends (step (at_ 1 1 ([0xC0] ++ str "abcdef" ++ [0x03, 0x00, 0x01, 0x05, 0x00, 0x20, 0x21]) 16)) 16
      (str "abcdefdefdfdefd!") = true := by decide
/-- V104: an enormous run is compared exactly. -/
theorem test_decompress_V104 :
    ends (step (at_ 1 1 [0xE0, 0xFF, 0xFF, 0xFF, 0xFF, 0xFF, 0x41] 100)) (-1) [] = true := by decide

/-- P1, step 2: `M 5 5` at `op` = 10. -/
theorem test_mS : onNext (step (dec [0x01, 0x05, 0x00] 16 0 (str "abcdefdefd") 0)) (fun t =>
    decide (t.outMem.slice 0 15 = some (str "abcdefdefdfdefd")) && decide (t.ipN = 3) && decide (t.decOp = 15)) = true := by
  decide
/-- P2, step 2: `M 19 4` at `op` = 11; one byte of capacity less fails. -/
theorem test_mX : onNext (step (dec [0x0F, 0x00, 0x04, 0x00] 30 0 (str "01234560123") 0)) (fun t =>
    decide (t.outMem.slice 11 19 = some (str "0123012301230123012")) && decide (t.decOp = 30)) = true ∧
    ends (step (dec [0x0F, 0x00, 0x04, 0x00] 29 0 (str "01234560123") 0)) (-1) [] = true := by decide
/-- V80, V81. -/
theorem test_lmSS : onNext (exec (.lmSS (str "abcdef") 3 4) (dec ([0xC3] ++ str "abcdef" ++ [4, 0]) 13 0 [] 0)) (fun t =>
    decide (t.outMem.slice 0 13 = some (str "abcdefcdefcde")) && decide (t.ipN = 9) && decide (t.dec.tag = 0xC3)) = true := by
  decide
/-- V83. -/
theorem test_lmSX : onNext (exec (.lmSX [0x41] 0 1) (dec [0x2F, 0x41, 0x00, 0x01, 0x00] 20 0 [] 0)) (fun t =>
    decide (t.outMem.slice 0 20 = some (List.replicate 20 0x41)) && decide (t.ipN = 5)) = true ∧
    ends (exec (.lmSX [0x41] 0 1) (dec [0x2F, 0x41, 0x00, 0x01, 0x00] 19 0 [] 0)) (-1) [] = true := by decide
/-- V85. -/
theorem test_lmXS : onNext
    (exec (.lmXS (str "0123456") 0 7) (dec ([0xE0, 0x00] ++ str "0123456" ++ [0x07, 0x00]) 11 0 [] 0)) (fun t =>
    decide (t.outMem.slice 0 11 = some (str "01234560123")) && decide (t.ipN = 11)) = true := by decide
/-- V86. -/
theorem test_lmXX : onNext
    (exec (.lmXX (str "0123456") 0 7) (dec ([0xEF, 0x00] ++ str "0123456" ++ [0x00, 0x07, 0x00]) 26 0 [] 0)) (fun t =>
    decide (t.outMem.slice 0 26 = some (str "01234560123456012345601234")) && decide (t.ipN = 12)) = true := by decide
/-- V72, V98. -/
theorem test_lS : onNext (exec (.lS 31 [0x41]) (dec [0x3F, 0x41] 1 0 [] 0)) (fun t =>
    decide (t.outMem.slice 0 1 = some [0x41]) && decide (t.ipN = 2) && decide (t.dec.tag = 0x3F)) = true ∧
    ends (exec (.lS 31 [0x41]) (dec [0x3F, 0x41] 0 0 [] 0)) (-1) [] = true := by decide
/-- V75. -/
theorem test_lX : onNext (exec (.lX 0 (str "abcdefg")) (dec ([0xE0, 0x00] ++ str "abcdefg") 7 0 [] 0)) (fun t =>
    decide (t.outMem.slice 0 7 = some (str "abcdefg")) && decide (t.ipN = 9) && decide (t.dec.run = 7)) = true := by decide
/-- P6: a zero distance, under both settings. -/
theorem test_zero_distance :
    onNext (step (dec [0x20, 0x41, 0x00, 0x00] 10 0 [] 0)) (fun t => decide (t.decOp = 5) && decide (t.ipN = 4)) = true ∧
    ends (step { dec [0x20, 0x41, 0x00, 0x00] 10 0 [] 0 with dist0 := .error }) (-1) [] = true := by decide

/-- V44, V50. -/
theorem test_hash : onNext (exec (.hash 0) (at_ 0 1 (str "AAAA") 20)) (fun t => decide (t.ret = .hash 35803)) = true ∧
    onNext (exec (.hash 0) (at_ 0 1 [0xFF, 0xFF, 0xFF, 0xFF] 20)) (fun t => decide (t.ret = .hash 100130)) = true := by
  decide
/-- V65: at INSERT(4) the bucket of "ABCD" holds 0. -/
theorem test_insert : onNext (exec (.insert 4) (inserted 4 (at_ 0 1 (str "ABCDABCDABCDABCD") 32))) (fun t =>
    decide (t.tail.get 4 = 0) && decide (t.head.get 123786 = 4) && decide (t.head.get 161075 = 1)) = true := by decide
/-- V56, `p` = 21, `max_chain` 2 and 4. -/
theorem test_findMatch :
    onNext (exec (.findMatch 21) (inserted 21 (at_ 0 1 (str "abcdefgh1abcdX2abcdY3abcdefgh") 45)))
      (fun t => decide (t.ret = .found 4 6)) = true ∧
    onNext (exec (.findMatch 21) (inserted 21 (at_ 0 2 (str "abcdefgh1abcdX2abcdY3abcdefgh") 45)))
      (fun t => decide (t.ret = .found 8 21)) = true := by decide
/-- V61 at `p` = 12. -/
theorem test_probe :
    onNext (exec (.probe 13 5) (inserted 12 (at_ 0 9 (str "abcdXcdefghYabcdefgh") 36)))
      (fun t => decide (t.ret = .truth false)) = true ∧
    onNext (exec (.probe 14 6) (inserted 12 (at_ 0 9 (str "abcdXcdefghYabcdefgh") 36)))
      (fun t => decide (t.ret = .truth true)) = true := by decide
theorem test_startCompress :
    onNext (exec .startCompress { enc 1 (str "A") 20 1 1 1 0 0 with head := [(3, 0)], tail := [(0, 5)] }) (fun t =>
      decide (t.head.get 3 = Config.NIL) && decide (t.tail.get 0 = 5) && decide (t.pN = 0) && decide (t.runN = 0) &&
        decide (t.encOp = 0)) = true := by decide
/-- R162's example: "AAAAAAAA" at `p` = 1. -/
theorem test_decide : onNext
    (exec .decidePos { inserted 1 (at_ 0 9 (str "AAAAAAAA") 24) with enc := ⟨1, 1, 0⟩ }) (fun t =>
      decide (t.outMem.slice 0 4 = some [0x23, 0x41, 0x01, 0x00]) && decide (t.pN = 8) && decide (t.runN = 0)) = true := by
  decide
/-- V53, V54: the threshold. -/
theorem test_suppress :
    onNext (exec .suppress (enc 1 [] 16 200 134 0 4 134)) (fun t => decide (t.bestN = 4)) = true ∧
    onNext (exec .suppress (enc 1 [] 16 200 135 0 4 135)) (fun t => decide (t.bestN = 0)) = true := by decide
/-- V60 at `p` = 12: rejected at level 9, kept at level 8. -/
theorem test_lazy :
    onNext (exec .lazy { inserted 12 (at_ 0 9 (str "abcdXbcdefgYabcdefg") 36) with
      enc := ⟨12, 12, 0⟩, mf := ⟨0, 0, 0, 0, 4, 12, 0, 0⟩ }) (fun t => decide (t.bestN = 0)) = true ∧
    onNext (exec .lazy { inserted 12 (at_ 0 8 (str "abcdXbcdefgYabcdefg") 36) with
      enc := ⟨12, 12, 0⟩, mf := ⟨0, 0, 0, 0, 4, 12, 0, 0⟩ }) (fun t => decide (t.bestN = 4)) = true := by decide
/-- R165's first two examples. -/
theorem test_emitMatch :
    onNext (exec .emitMatch (enc 1 (str "ABCDABCDABCDABCD") 32 4 4 0 12 4)) (fun t =>
      decide (t.outMem.slice 0 7 = some [0x88, 0x41, 0x42, 0x43, 0x44, 0x04, 0x00]) && decide (t.encOp = 7)) = true ∧
    onNext (exec .emitMatch (enc 1 (str "ABCDABCDABCDABCD") 32 9 0 5 4 9)) (fun t =>
      decide (t.outMem.slice 5 3 = some [0x00, 0x09, 0x00]) && decide (t.encOp = 8)) = true := by decide
/-- R166's example. -/
theorem test_emitvar : onNext (exec (.emitvar 128) (enc 1 [] 16 0 0 3 0 0)) (fun t =>
    decide (t.outMem.slice 3 3 = some [0x80, 0x00, 0xEE]) && decide (t.encOp = 5)) = true := by decide
/-- R167's example. -/
theorem test_accept : onNext
    (exec .accept { inserted 1 (at_ 0 1 (str "AAAAAAAA") 24) with enc := ⟨1, 1, 4⟩, mf := ⟨0, 0, 0, 0, 7, 1, 0, 0⟩ })
    (fun t => decide (t.head.get 35803 = 4) && decide (t.tail.get 4 = 3) && decide (t.tail.get 1 = 0) &&
      decide (t.pN = 8) && decide (t.runN = 0)) = true := by decide
/-- R168's example. -/
theorem test_literal : onNext (exec .literal (enc 1 (str "A") 17 0 0 0 0 0)) (fun t =>
    decide (t.pN = 1) && decide (t.runN = 1) && decide (t.encOp = 0)) = true := by decide
/-- R169's first example, and V59's run of 7. -/
theorem test_emitFinal :
    onNext (exec .emitFinal (enc 1 (str "A") 17 1 1 0 0 0)) (fun t =>
      decide (t.outMem.slice 0 2 = some [0x20, 0x41]) && decide (t.encOp = 2)) = true ∧
    onNext (exec .emitFinal (enc 1 (str "0123456") 23 7 7 0 0 0)) (fun t =>
      decide (t.outMem.slice 0 9 = some ([0xE0, 0x00] ++ str "0123456"))) = true := by decide
/-- V24. -/
theorem test_varintEnc : onNext (exec (.varintEnc 129) State.reset) (fun t => decide (t.ret = .bytes [0x81, 0x00])) = true := by
  decide
/-- V25, V43. -/
theorem test_varintDec :
    onNext (exec (.varintDec [0xFF, 0x00]) State.reset) (fun t => decide (t.ret = .value 255)) = true ∧
    ends (exec (.varintDec [0x80]) State.reset) (-1) [] = true := by decide
theorem test_fetch :
    onNext (exec .fetch (dec [0xC0, 0x61] 8 1 [] 0)) (fun t => decide (t.ret = .byte 0x61) && decide (t.ipN = 2)) = true ∧
    ends (exec .fetch (dec [0xC0, 0x61] 8 2 [] 0)) (-1) [] = true := by decide
/-- R204's example. -/
theorem test_decvar : onNext (exec .decvar (dec [0xED, 0x9E, 0x05, 0x00] 8 0 [] 0)) (fun t =>
    decide (t.ret = .value 102381) && decide (t.ipN = 3)) = true := by decide
/-- R203's example, and V91. -/
theorem test_litphase :
    onNext (exec .litphase (dec [0x80, 0x41, 0x41, 0x41, 0x41] 4 1 [] 0x80)) (fun t =>
      decide (t.outMem.slice 0 4 = some (str "AAAA")) && decide (t.ipN = 5) && decide (t.decOp = 4)) = true ∧
    ends (exec .litphase (dec [0x20] 10 1 [] 0x20)) (-1) [] = true := by decide
/-- R207's example, and V94. -/
theorem test_matchphase :
    onNext (exec .matchphase (dec [0x88, 0x41, 0x42, 0x43, 0x44, 0x04, 0x00] 16 5 (str "ABCD") 0x88)) (fun t =>
      decide (t.outMem.slice 0 16 = some (str "ABCDABCDABCDABCD")) && decide (t.ipN = 7) && decide (t.decOp = 16)) = true ∧
    ends (exec .matchphase (dec [0x10, 0x00, 0x00] 100 1 [] 0x10)) (-1) [] = true := by decide
/-- R208's example. -/
theorem test_matchcopy : onNext (exec (.matchcopy 7 1) (dec [] 16 0 [0x41] 0)) (fun t =>
    decide (t.outMem.slice 0 8 = some (str "AAAAAAAA")) && decide (t.decOp = 1)) = true := by decide
/-- R205's example; the byte behind the permitted overrun is kept. -/
theorem test_wildcopy : onNext (exec (.wildcopy .output 4 .output 0 12) (dec [] 40 0 (str "ABCD") 0)) (fun t =>
    decide (t.outMem.slice 4 12 = some (str "ABCDABCDABCD")) && decide (t.outMem.byte? 28 = some 0xEE)) = true := by decide
/-- R206's example; nothing is written behind it. -/
theorem test_bytecopy : onNext (exec (.bytecopy 1 0 7) (dec [] 16 0 [0x41] 0)) (fun t =>
    decide (t.outMem.slice 0 9 = some (str "AAAAAAAA" ++ [0xEE]))) = true := by decide

/-- Refused launches (R247), one per premise. -/
theorem test_refused :
    exec .compress { at_ 0 1 [] 16 with status := .busy } = .refused .startWhileBusy ∧
    exec .compress (at_ 0 10 [] 16) = .refused .levelIllegal ∧
    exec .compress (at_ 0 1 [] 15) = .refused .capacityTooSmall ∧
    exec .decompress { at_ 1 1 [] 16 with inLen := 2147483632 } = .refused .inLenTooLarge ∧
    exec .decompress { at_ 1 1 [] 16 with outCap := 2147483632 } = .refused .outCapTooLarge ∧
    exec .decompress { at_ 1 1 [] 16 with inMem := [] } = .refused .inPadAbsent ∧
    exec .decompress { at_ 1 1 [] 16 with outMem := [] } = .refused .outSlackAbsent ∧
    exec .decompress { at_ 1 1 [] 16 with outBase := 15 } = .refused .buffersOverlap := by
  refine ⟨?_, ?_, ?_, ?_, ?_, ?_, ?_, ?_⟩ <;> rfl

/-! ## Witnesses: states and operands that meet the hypotheses of the statements -/

/-- Well-formed tokens of all eight forms, at the ends of their fields. -/
def tokens : List Instr :=
  [.mX 0 131071, .mS 14 1, .lmXX [0, 1, 2, 3, 4, 5, 6] 0 1, .lmXS [0, 1, 2, 3, 4, 5, 6] 14 131071, .lmSX [0] 127 1,
   .lmSS [0, 1, 2, 3, 4, 5] 0 65536, .lX 31 [0, 1, 2, 3, 4, 5, 6], .lS 0 [0, 1, 2, 3, 4, 5]]

theorem witness_TokenDecodeEncode :
    (∀ i ∈ tokens, i.isToken = true ∧ i.wf = true) ∧ (Instr.mS 14 1).isFinal = false ∧ (Instr.lS 0 [0]).isFinal = true := by
  decide

theorem witness_DecodedTokenReencodes :
    decode [0x00, 0x09, 0x00, 0x20] = .ok (.mS 0 9, [0x20]) ∧ (Instr.mS 0 9).wf = true := by decide

/-- VARINT_ENC ends with a byte below 128. -/
theorem varintEncLoop_last : ∀ fuel x : Nat, x ≤ fuel → ∃ bs c, varintEncLoop fuel x = bs ++ [c] ∧ c.toNat < 128
  | 0, x, h => ⟨[], 0, by simp [varintEncLoop, Nat.le_zero.mp h], by decide⟩
  | fuel + 1, x, h => by
    unfold varintEncLoop
    split
    · obtain ⟨bs, c, hb, hc⟩ := varintEncLoop_last fuel ((x - 128) / 128) (by omega)
      exact ⟨_ :: bs, c, by rw [hb]; rfl, hc⟩
    · exact ⟨[], BitVec.ofNat 8 x, rfl, by simp; omega⟩

theorem witness_VarintProperties :
    (34630287487 < 34630287488) ∧
    (([0xFF, 0xFF, 0xFF, 0xFF] : List Byte).length ≤ 4 ∧ (∀ b ∈ ([0xFF, 0xFF, 0xFF, 0xFF] : List Byte), 128 ≤ b.toNat) ∧
      (0x7F : Byte).toNat < 128) ∧
    varintDec [0x80, 0x80, 0x80, 0x80, 0x80] = some (34630287488, []) ∧
    (∀ y, y < 34630287488 → varintEnc y ≠ [0x80, 0x80, 0x80, 0x80, 0x80]) := by
  refine ⟨by decide, by decide, by decide, fun y _ h => ?_⟩
  obtain ⟨bs, c, hb, hc⟩ := varintEncLoop_last y y le_rfl
  have h' := congrArg List.getLast? (hb.symm.trans h)
  rw [List.getLast?_concat] at h'
  cases h'
  exact absurd hc (by decide)

theorem witness_VarintEncRounds :
    onNext (exec (.varintEnc 127) State.reset) (fun t => decide (t.ret = .bytes [0x7F])) = true ∧
    onNext (exec (.varintEnc 16512) State.reset) (fun t => decide (t.ret = .bytes [0x80, 0x80, 0x00])) = true := by decide

theorem witness_VarintDecSums :
    varintWhole 5 [0xFF, 0xFF, 0xFF, 0xFF, 0xFF] = true ∧ varintWhole 5 [0x00] = true ∧
    ([0x80, 0x80, 0x80, 0x80] : List Byte).length < 5 ∧
    (∀ b ∈ ([0x80, 0x80, 0x80, 0x80] : List Byte), 128 ≤ b.toNat) := by decide

theorem witness_AssemblerKeepsValues :
    ([0x41] : List Byte).length < 34630287488 ∧ 4 ≤ 4 ∧ 18 < 34630287488 ∧ 34630287487 < 34630287488 ∧
    ([0x41] : List Byte) ≠ [] := by decide

/-! ### Running commands -/

/-- COMPRESS of "AAAAAAAA" at level 9, position 1: position 0 is inserted. -/
def e1 : State := { enc 9 (str "AAAAAAAA") 24 1 1 0 0 0 with head := [(35803, 0)] }
/-- DECOMPRESS of the stream of V4, at its start. -/
def d1 : State := dec [0x23, 0x41, 0x01, 0x00] 8 0 [] 0
/-- An idle core with a move pending. -/
def idleWith (m : HostMove) : State := { at_ 1 1 [0x23, 0x41, 0x01, 0x00] 8 with host := [m] }

theorem e1_data : DataWf e1 := ⟨by decide, by decide, by decide, by decide⟩
theorem d1_data : DataWf d1 := ⟨by decide, by decide, by decide, by decide⟩

theorem e1_tables : TablesBelow e1 := by
  constructor
  · intro h
    show (Table.get [(35803, 0)] h).toInt < 1
    unfold Table.get
    split
    · decide
    · exact (by decide : Config.NIL.toInt < 1)
  · intro q hq _
    obtain rfl : q = 0 := Nat.lt_one_iff.mp hq
    decide

theorem e1_encoder : EncoderInv e1 :=
  ⟨by unfold CompressOperands; decide, by unfold BuffersReady; decide, e1_tables, by decide, by decide, by decide⟩

theorem d1_decoder : DecoderInv d1 :=
  ⟨by unfold DecompressOperands; decide, by unfold BuffersReady; decide, by decide, by decide⟩

theorem e1_inv : Inv e1 := ⟨e1_data, fun _ _ => e1_encoder, fun _ h => absurd h (by decide)⟩
theorem d1_inv : Inv d1 := ⟨d1_data, fun _ h => absurd h (by decide), fun _ _ => d1_decoder⟩

theorem witness_StepRunsTheInstruction :
    (d1.status = .busy ∧ d1.cmd = 1 ∧ d1.ipN < d1.inN ∧ streamRest d1 = some [0x23, 0x41, 0x01, 0x00] ∧
      decode [0x23, 0x41, 0x01, 0x00] = .ok (.lmSS [0x41] 3 1, [])) ∧
    (e1.status = .busy ∧ e1.cmd = 0 ∧ e1.pN < e1.inN) ∧
    ((at_ 1 1 [] 0).status ≠ .busy ∧ (at_ 1 1 [] 0).host = .start :: []) := by decide

/-- A running COMPRESS, a running DECOMPRESS and an idle core. -/
theorem witness_StepKeepsInv :
    (Inv e1 ∧ step e1 = .next (nextOf (step e1))) ∧ (Inv d1 ∧ step d1 = .next (nextOf (step d1))) ∧
    (Inv State.reset ∧ step State.reset = .next (nextOf (step State.reset))) :=
  ⟨⟨e1_inv, next_of (by decide)⟩, ⟨d1_inv, next_of (by decide)⟩,
    ⟨⟨⟨rfl, rfl, rfl, rfl⟩, (nomatch ·), (nomatch ·)⟩, rfl⟩⟩

theorem witness_BusyStepCompletes : (Inv e1 ∧ e1.status = .busy) ∧ (Inv d1 ∧ d1.status = .busy) :=
  ⟨⟨e1_inv, rfl⟩, ⟨d1_inv, rfl⟩⟩

theorem witness_BusyStepFrame :
    (e1.status = .busy ∧ e1.cmd = 0 ∧ step e1 = .next (nextOf (step e1))) ∧
    (d1.status = .busy ∧ d1.cmd = 1 ∧ step d1 = .next (nextOf (step d1))) :=
  ⟨⟨rfl, rfl, next_of (by decide)⟩, ⟨rfl, rfl, next_of (by decide)⟩⟩

theorem witness_StatusMoves :
    onNext (step State.reset) (fun t => decide (t.status = .idle)) = true ∧
    onNext (step (idleWith .startStepped)) (fun t => decide (t.status = .busy)) = true ∧
    onNext (step (idleWith .start)) (fun t => decide (t.status = .done)) = true := by decide

theorem witness_HostMovesChangeOnePart :
    State.reset.status ≠ .busy ∧ State.reset.host = [] ∧
    (idleWith (.writeCmd 1)).host = [.writeCmd 1] ∧ (idleWith (.writeLevel 9)).host = [.writeLevel 9] ∧
    (idleWith (.writeInLen 0xFFFFFFFF)).host = [.writeInLen 0xFFFFFFFF] ∧
    (idleWith (.writeOutCap 0)).host = [.writeOutCap 0] ∧ (idleWith (.lendIn 0 [1])).host = [.lendIn 0 [1]] ∧
    (idleWith (.lendOut 7 [])).host = [.lendOut 7 []] := by decide

theorem witness_SteppedCommandIsTheCommand :
    (idleWith .startStepped).status ≠ .busy ∧ (idleWith .startStepped).host = .startStepped :: [] ∧
    exec (decodeCmd (idleWith .startStepped).cmd) ((idleWith .startStepped).withHost []) =
      .next (nextOf (exec (decodeCmd (idleWith .startStepped).cmd) ((idleWith .startStepped).withHost []))) :=
  ⟨by decide, rfl, next_of (by decide)⟩

/-! ### Match Finder -/

/-- The last position HASH admits: `x + 3 = in_len + 15`. -/
theorem witness_HashValue :
    12 + 3 ≤ (at_ 0 1 [] 16).inN + 15 ∧ (at_ 0 1 [] 16).inMem.byte? 12 = some 0x55 ∧
    (at_ 0 1 [] 16).inMem.byte? 13 = some 0x55 ∧ (at_ 0 1 [] 16).inMem.byte? 14 = some 0x55 ∧
    (at_ 0 1 [] 16).inMem.byte? 15 = some 0x55 := by decide

/-- The last position of the input, whose hash covers pad bytes. -/
theorem witness_InsertEffect :
    DataWf e1 ∧ 7 < e1.inN ∧ hashAt e1.inMem 7 = some (hashWord 0x55555541) := ⟨e1_data, by decide, by decide⟩

theorem e1_table_invariant : TableInvariant [] e1 := by
  constructor
  · intro h q hq hh
    obtain rfl : q = 0 := Nat.lt_one_iff.mp hq
    have h0 : hashAt e1.inMem 0 = some 35803 := by decide
    cases h0.symm.trans hh
    decide
  · intro h
    by_cases hh : h = 35803
    · subst hh
      exact .inr ⟨0, by decide, by decide, by decide⟩
    · left
      show Table.get [(35803, 0)] h.toNat = Config.NIL
      unfold Table.get
      rw [if_neg fun hn => hh (BitVec.eq_of_toNat_eq hn.symm)]
      rfl
  · intro q q' hq _ hq'
    have : q < 1 := hq
    omega
  · intro q hq _
    exact .inl rfl
  · intro k _ _
    rfl

theorem witness_DecideKeepsTableInvariant :
    exec .startCompress e1 = .next (nextOf (exec .startCompress e1)) ∧
    DataWf e1 ∧ CompressOperands e1 ∧ TableInvariant [] e1 ∧
      exec .decidePos e1 = .next (nextOf (exec .decidePos e1)) :=
  ⟨rfl, e1_data, e1_encoder.operands, e1_table_invariant, next_of (by decide)⟩

/-- And the result of this search is a match (V66). -/
theorem witness_FindMatchNearestLongest :
    DataWf e1 ∧ CompressOperands e1 ∧ e1.inMem.covers (e1.inN + 16) = true ∧ TableInvariant [] e1 ∧ e1.pN < e1.inN ∧
    onNext (exec (.findMatch 1) e1) (fun t => decide (t.ret = .found 7 1)) = true :=
  ⟨e1_data, e1_encoder.operands, by decide, e1_table_invariant, by decide, by decide⟩

/-- Both offsets, a target that fits and one that does not. -/
theorem witness_ProbeFindsRepetition :
    DataWf e1 ∧ CompressOperands e1 ∧ e1.inMem.covers (e1.inN + 16) = true ∧ TableInvariant [] e1 ∧
    (e1.pN < 2 ∧ 2 ≤ e1.pN + 2 ∧ 5 ≤ 5) ∧ (e1.pN < 3 ∧ 3 ≤ e1.pN + 2 ∧ 5 ≤ 6) ∧ 8 ≤ e1.level.toNat ∧
    onNext (exec (.probe 2 5) e1) (fun t => decide (t.ret = .truth true)) = true ∧
    onNext (exec (.probe 3 6) e1) (fun t => decide (t.ret = .truth false)) = true :=
  ⟨e1_data, e1_encoder.operands, by decide, e1_table_invariant, by decide, by decide, by decide, by decide, by decide⟩

/-! ### Encoder -/

/-- V60 at `p` = 12: a valid match that a probe beats, and the same at level 8. -/
def lazyState (level : BitVec 4) : State :=
  { inserted 12 (at_ 0 level (str "abcdXbcdefgYabcdefg") 36) with
    enc := ⟨12, 12, 0⟩, mf := ⟨0, 0, 0, 0, 4, 12, 0, 0⟩ }

theorem witness_LazyEffect :
    ((lazyState 9).inMem.covers ((lazyState 9).inN + 16) = true ∧ (lazyState 9).level = 9 ∧ 4 ≤ (lazyState 9).bestN ∧
      (lazyState 9).bestN < (lazyState 9).inN - (lazyState 9).pN ∧ ProbeHits (lazyState 9) 13 5) ∧
    ((lazyState 8).inMem.covers ((lazyState 8).inN + 16) = true ∧ (lazyState 8).level ≠ 9) := by
  refine ⟨⟨by decide, by decide, by decide, by decide, nextOf (exec (.probe 13 5) (lazyState 9)), ?_, by decide⟩, by decide⟩
  exact next_of (by decide)

/-- One search that finds nothing (`p` = 0) and one that finds `Match(7, 1)`. -/
theorem witness_DecideIsItsParts :
    (exec (.findMatch 1) e1 = .next (nextOf (exec (.findMatch 1) e1)) ∧
      (nextOf (exec (.findMatch 1) e1)).ret = .found 7 1) ∧
    (exec (.findMatch 0) (at_ 0 1 (str "A") 17) = .next (nextOf (exec (.findMatch 0) (at_ 0 1 (str "A") 17))) ∧
      (nextOf (exec (.findMatch 0) (at_ 0 1 (str "A") 17))).ret = .noMatch) ∧
    (CompressOperands e1 ∧ exec .decidePos e1 = .next (nextOf (exec .decidePos e1))) :=
  ⟨⟨next_of (by decide), by decide⟩, ⟨next_of (by decide), by decide⟩, ⟨e1_encoder.operands, next_of (by decide)⟩⟩

theorem witness_DecideAdvances : DataWf e1 ∧ EncoderInv e1 ∧ e1.pN < e1.inN := ⟨e1_data, e1_encoder, by decide⟩

/-- R165's example with literals, its capacity exactly used, and one without literals. -/
theorem witness_EmitMatchWritesToken :
    (let s := enc 1 (str "ABCDABCDABCDABCD") 7 4 4 0 12 4
     4 ≤ s.bestN ∧ 1 ≤ s.distN ∧ s.distN ≤ 131071 ∧ s.runN ≤ s.pN ∧
      s.inMem.slice (s.pN - s.runN) s.runN = some (str "ABCD") ∧
      encode (assembleMatch (str "ABCD") s.bestN (BitVec.ofNat 17 s.distN)) =
        some [0x88, 0x41, 0x42, 0x43, 0x44, 0x04, 0x00] ∧
      s.outMem.covers (s.capN + 16) = true ∧ s.encOp + 7 ≤ s.capN) ∧
    (let s := enc 1 (str "AAAA") 20 4 0 5 4 131071
     4 ≤ s.bestN ∧ 1 ≤ s.distN ∧ s.distN ≤ 131071 ∧ s.runN ≤ s.pN ∧
      s.inMem.slice (s.pN - s.runN) s.runN = some [] ∧
      encode (assembleMatch [] s.bestN (BitVec.ofNat 17 s.distN)) = some [0x10, 0xFF, 0xFF] ∧
      s.outMem.covers (s.capN + 16) = true ∧ s.encOp + 3 ≤ s.capN) := by decide

theorem witness_EmitFinalWritesToken :
    (enc 1 (str "AAAA") 20 4 0 4 0 0).runN = 0 ∧
    (let s := enc 1 (str "0123456") 9 7 7 0 0 0
     s.runN ≠ 0 ∧ s.runN ≤ s.pN ∧ s.inMem.slice (s.pN - s.runN) s.runN = some (str "0123456") ∧
      encode (assembleFinal (str "0123456")) = some ([0xE0, 0x00] ++ str "0123456") ∧
      s.outMem.covers (s.capN + 16) = true ∧ s.encOp + 9 ≤ s.capN) := by decide

theorem witness_EmitvarWritesVarint :
    (enc 1 [] 16 0 0 14 0 0).outMem.covers ((enc 1 [] 16 0 0 14 0 0).capN + 16) = true ∧
    (enc 1 [] 16 0 0 14 0 0).encOp + vlen 128 ≤ (enc 1 [] 16 0 0 14 0 0).capN ∧ 128 < 2147483648 := by decide

/-- A match that ends with the input. -/
theorem witness_AcceptEffect :
    (enc 1 (str "AAAAAAAA") 24 1 0 4 7 1).inMem.covers ((enc 1 (str "AAAAAAAA") 24 1 0 4 7 1).inN + 16) = true ∧
    (enc 1 (str "AAAAAAAA") 24 1 0 4 7 1).pN + (enc 1 (str "AAAAAAAA") 24 1 0 4 7 1).bestN ≤
      (enc 1 (str "AAAAAAAA") 24 1 0 4 7 1).inN := by decide

/-- The last position of the input. -/
theorem witness_LiteralEffect :
    (enc 1 (str "AB") 18 1 1 0 0 0).inMem.covers ((enc 1 (str "AB") 18 1 1 0 0 0).inN + 16) = true ∧
    (enc 1 (str "AB") 18 1 1 0 0 0).pN < (enc 1 (str "AB") 18 1 1 0 0 0).inN ∧
    (enc 1 (str "AB") 18 1 1 0 0 0).runN ≤ (enc 1 (str "AB") 18 1 1 0 0 0).pN := by decide

/-- COMPRESS of "AAAAAAAA", with the smallest capacity R281 admits. -/
def c1 : State := at_ 0 9 (str "AAAAAAAA") 24
/-- The same input at another place of OUT, with other table contents. -/
def c2 : State := { at_ 0 9 (str "AAAAAAAA") 30 with tail := [(0, 7)], head := [(1, 1)], enc := ⟨5, 5, 5⟩ }
/-- DECOMPRESS of the stream that gives. -/
def c3 (len cap : Nat) : State := { at_ 1 1 [0x23, 0x41, 0x01, 0x00] cap with inLen := Word.ofNat len }

theorem c1_data : DataWf c1 := ⟨by decide, by decide, by decide, by decide⟩
theorem c2_data : DataWf c2 := ⟨by decide, by decide, by decide, by decide⟩
theorem c1_ready : CompressReady c1 := by unfold CompressReady CompressOperands BuffersReady; decide
theorem c2_ready : CompressReady c2 := by unfold CompressReady CompressOperands BuffersReady; decide
theorem c3_ready : DecompressReady (c3 4 8) := by unfold DecompressReady DecompressOperands BuffersReady; decide
theorem c3_cut_ready : DecompressReady (c3 2 8) := by unfold DecompressReady DecompressOperands BuffersReady; decide
theorem c3_small_ready : DecompressReady (c3 4 7) := by unfold DecompressReady DecompressOperands BuffersReady; decide
theorem c1_runs : exec .compress c1 = .next (nextOf (exec .compress c1)) := next_of (by decide)
theorem c1_bytes : (nextOf (exec .compress c1)).result.toNat = 4 ∧
    (nextOf (exec .compress c1)).outMem.slice 0 4 = some [0x23, 0x41, 0x01, 0x00] := by decide

theorem witness_CompressCompletes :
    (DataWf c1 ∧ CompressReady c1) ∧ (DataWf (at_ 0 1 [] 16) ∧ CompressReady (at_ 0 1 [] 16)) :=
  ⟨⟨c1_data, c1_ready⟩, ⟨by decide, by decide, by decide, by decide⟩,
    by unfold CompressReady CompressOperands BuffersReady; decide⟩

/-- One broken premise of each command. -/
theorem witness_OnlyBrokenPremisesRefused :
    ¬CompressReady (at_ 0 0 [] 16) ∧ ¬DecompressReady { at_ 1 1 [] 16 with outBase := 15 } ∧
    DataWf (at_ 0 0 [] 16) ∧ exec .compress (at_ 0 0 [] 16) = .refused .levelIllegal ∧
    exec .decompress { at_ 1 1 [] 16 with outBase := 15 } = .refused .buffersOverlap := by
  refine ⟨?_, ?_, ⟨by decide, by decide, by decide, by decide⟩, rfl, rfl⟩
  · unfold CompressReady CompressOperands BuffersReady; decide
  · unfold DecompressReady DecompressOperands BuffersReady; decide

theorem witness_DecompressOfCompressIsInput :
    DataWf c1 ∧ CompressReady c1 ∧ exec .compress c1 = .next (nextOf (exec .compress c1)) ∧ DecompressReady (c3 4 8) ∧
    (c3 4 8).inN = (nextOf (exec .compress c1)).result.toNat ∧
    (∀ a, a < (c3 4 8).inN → (c3 4 8).inMem.byte? a = (nextOf (exec .compress c1)).outMem.byte? a) ∧
    c1.inN ≤ (c3 4 8).capN ∧ exec .decompress (c3 4 8) = .next (nextOf (exec .decompress (c3 4 8))) :=
  ⟨c1_data, c1_ready, c1_runs, c3_ready, by decide, by decide, by decide, next_of (by decide)⟩

theorem witness_FirstTokenCarriesLiterals :
    DataWf c1 ∧ CompressReady c1 ∧ 0 < c1.inN ∧ exec .compress c1 = .next (nextOf (exec .compress c1)) :=
  ⟨c1_data, c1_ready, by decide, c1_runs⟩

theorem witness_CompressDependsOnInputAndLevel :
    DataWf c1 ∧ DataWf c2 ∧ CompressReady c1 ∧ CompressReady c2 ∧ c1.inLen = c2.inLen ∧ c1.level = c2.level ∧
    SameInput c1 c2 c1.inN ∧ exec .compress c1 = .next (nextOf (exec .compress c1)) ∧
    exec .compress c2 = .next (nextOf (exec .compress c2)) :=
  ⟨c1_data, c2_data, c1_ready, c2_ready, rfl, rfl, by unfold SameInput; decide, c1_runs, next_of (by decide)⟩

theorem witness_OutsideDomainRefused :
    State.reset.inN + 15 < 13 + 3 ∧ State.reset.inN ≤ 0 ∧ State.reset.inN ≤ State.reset.pN ∧ 3 < 0 + 4 ∧ State.reset.bestN < 4 ∧
    (enc 1 [] 16 4 5 0 4 1).pN < (enc 1 [] 16 4 5 0 4 1).runN ∧ (dec [] 8 0 [] 0x1F).dec.tag.toNat < 32 ∧
    (dec [] 8 0 [0x41] 0).decOp < (2 : BitVec 17).toNat := by decide

/-! ### Decoder -/

theorem witness_FetchEffect :
    ((dec [0xC0] 8 0 [] 0).ipN < (dec [0xC0] 8 0 [] 0).inN ∧
      (dec [0xC0] 8 0 [] 0).inMem.byte? (dec [0xC0] 8 0 [] 0).ipN = some 0xC0) ∧
    (dec [0xC0] 8 1 [] 0).inN ≤ (dec [0xC0] 8 1 [] 0).ipN := by decide

theorem witness_DecvarReadsStream :
    (streamRest (dec [0xFF, 0x7F] 8 0 [] 0) = some [0xFF, 0x7F] ∧ varintDec [0xFF, 0x7F] = some (16511, [])) ∧
    (streamRest (dec [0x80] 8 0 [] 0) = some [0x80] ∧ varintDec [0x80] = none) := by decide

/-- The common hypotheses of LITPHASE, and its four cases: a run that fits exactly, a run varint, one that does not
fit, a cut run varint. -/
theorem witness_LitphaseEffect :
    (let s := dec [0x80, 0x41, 0x41, 0x41, 0x41] 4 1 [] 0x80
     32 ≤ s.dec.tag.toNat ∧ s.inMem.covers (s.inN + 16) = true ∧ s.outMem.covers (s.capN + 16) = true ∧ s.ipN ≤ s.inN ∧
      RunField s 4 1 ∧ s.decOp + 4 ≤ s.capN ∧ 1 + 4 ≤ s.inN) ∧
    (let s := dec ([0xE0, 0x00] ++ str "abcdefg") 7 1 [] 0xE0
     32 ≤ s.dec.tag.toNat ∧ RunField s 7 2 ∧ s.decOp + 7 ≤ s.capN ∧ 2 + 7 ≤ s.inN) ∧
    (let s := dec [0x20] 10 1 [] 0x20
     s.ipN ≤ s.inN ∧ RunField s 1 1 ∧ s.inN < 1 + 1) ∧
    RunFieldMissing (dec [0xE0, 0x80] 300 1 [] 0xE0) := by
  refine ⟨⟨by decide, by decide, by decide, by decide, .inl (by decide), by decide, by decide⟩,
    ⟨by decide, .inr ⟨by decide, [0x00] ++ str "abcdefg", 0, str "abcdefg", by decide, by decide, by decide, by decide⟩,
      by decide, by decide⟩,
    ⟨by decide, .inl (by decide), by decide⟩, ⟨by decide, [0x80], by decide, by decide⟩⟩

/-- MATCHPHASE: a match that fits exactly at the largest legal distance (`dist = op`), a distance one too large, a zero
distance, a capacity one too small, a missing distance byte, a cut length varint. -/
theorem witness_MatchphaseEffect :
    (let s := dec [0xC0, 0x06, 0x00] 10 1 (str "abcdef") 0xC0
     s.inMem.covers (s.inN + 16) = true ∧ s.outMem.covers (s.capN + 16) = true ∧ s.ipN ≤ s.inN ∧ LenField s 4 1 ∧
      s.decOp + 4 ≤ s.capN ∧ 1 + 2 ≤ s.inN ∧ s.inMem.byte? 1 = some 0x06 ∧ s.inMem.byte? 2 = some 0x00 ∧
      6 = (s.dec.tag.toNat / 16 % 2) * 65536 + (0x00 : Byte).toNat * 256 + (0x06 : Byte).toNat ∧ 6 ≤ s.decOp) ∧
    (let s := dec [0xC0, 0x07, 0x00] 10 1 (str "abcdef") 0xC0
     LenField s 4 1 ∧ s.inMem.byte? 1 = some 0x07 ∧ s.decOp < 7) ∧
    (let s := dec [0x20, 0x00, 0x00] 5 1 (str "A") 0x20
     LenField s 4 1 ∧ s.decOp + 4 ≤ s.capN ∧ s.inMem.byte? 1 = some 0x00 ∧ s.dist0 = .selfcopy ∧
      LenField { s with dist0 := .error } 4 1) ∧
    (let s := dec [0xC0, 0x06, 0x00] 9 1 (str "abcdef") 0xC0
     LenField s 4 1 ∧ s.capN < s.decOp + 4) ∧
    (let s := dec [0x2F, 0x00, 0x01] 30 1 (str "A") 0x2F
     LenField s 19 2 ∧ s.inN < 2 + 2) ∧
    LenFieldMissing (dec [0x2F, 0x80] 30 1 (str "A") 0x2F) := by
  refine ⟨⟨by decide, by decide, by decide, .inl (by decide), by decide, by decide, by decide, by decide, by decide,
      by decide⟩,
    ⟨.inl (by decide), by decide, by decide⟩,
    ⟨.inl (by decide), by decide, by decide, by decide, .inl (by decide)⟩, ⟨.inl (by decide), by decide⟩,
    ⟨.inr ⟨by decide, [0x00, 0x01], 0, [0x01], by decide, by decide, by decide, by decide⟩, by decide⟩,
    ⟨by decide, [0x80], by decide, by decide⟩⟩

theorem witness_MatchcopyRepeats :
    (let s := dec [] 16 0 (str "ABCD") 0
     ((4 : BitVec 17).toNat ≤ s.decOp ∧ s.outMem.covers (s.decOp + 12) = true ∧ 1 ≤ (4 : BitVec 17).toNat) ∧
     ((1 : BitVec 17).toNat ≤ s.decOp ∧ 1 ≤ (1 : BitVec 17).toNat) ∧
     ((0 : BitVec 17).toNat ≤ s.decOp ∧ s.dist0 = .selfcopy)) ∧
    { dec [] 16 0 (str "ABCD") 0 with dist0 := .error }.dist0 = .error := by decide

theorem witness_WildcopyEffect :
    (let s := dec [0x80, 0x41, 0x41, 0x41, 0x41] 16 1 (str "ABCD") 0
     ((∀ k, k < 4 → (s.inMem.byte? (1 + k)).isSome = true) ∧ (∀ k, k < 4 → (s.outMem.byte? (4 + k)).isSome = true)) ∧
     (0 + 4 ≤ 4 ∧ (∀ k, 0 ≤ k → k < 4 + 12 → (s.outMem.byte? k).isSome = true))) := by decide

/-- Distances 1 and 3, and a destination below the source. -/
theorem witness_BytecopyEffect :
    let s := dec [] 16 0 (str "ABC") 0
    (∀ k, k < 7 → (s.outMem.byte? (0 + k)).isSome = true) ∧ (∀ k, k < 7 → (s.outMem.byte? (1 + k)).isSome = true) ∧
    0 < 1 ∧ 0 < 3 ∧ (∀ k, k < 7 → (s.outMem.byte? (3 + k)).isSome = true) ∧ 0 ≤ 3 := by decide

/-- Every form, its capacity and its stream exactly used. -/
theorem witness_TokenExecutes :
    ∀ x ∈ ([(.mX 0 1, dec [0, 0, 0, 0] 20 0 [0x41] 0), (.mS 14 4, dec [0, 0, 0] 22 0 (str "ABCD") 0),
      (.lmXX (str "0123456") 0 7, dec (List.replicate 12 0) 26 0 [] 0),
      (.lmXS (str "0123456") 0 7, dec (List.replicate 11 0) 11 0 [] 0), (.lmSX [0x41] 0 1, dec [0, 0, 0, 0, 0] 20 0 [] 0),
      (.lmSS (str "abcdef") 0 6, dec (List.replicate 9 0) 10 0 [] 0), (.lX 31 (str "abcdefg"), dec (List.replicate 9 0) 7 0 [] 0),
      (.lS 0 (str "abcdef"), dec (List.replicate 7 0) 6 0 [] 0)] : List (Instr × State)),
      x.1.isToken = true ∧ x.1.wf = true ∧ x.2.inN ≤ 2147483631 ∧ x.2.capN ≤ 2147483631 ∧
      x.2.outMem.covers (x.2.capN + 16) = true ∧ x.2.decOp + (lits x.1).length + matchLen x.1 ≤ x.2.capN ∧
      x.2.ipN + x.1.byteLength ≤ x.2.inN ∧
      (x.1.isFinal = false → 1 ≤ matchDist x.1 ∧ matchDist x.1 ≤ x.2.decOp + (lits x.1).length) := by decide

theorem witness_ZeroDistanceToken :
    let s := dec [0x20, 0x41, 0x00, 0x00] 5 0 [] 0
    let i := Instr.lmSS [0x41] 0 0
    i.isToken = true ∧ i.isFinal = false ∧ i.wf = true ∧ s.inN ≤ 2147483631 ∧ s.capN ≤ 2147483631 ∧
    s.outMem.covers (s.capN + 16) = true ∧ s.decOp + (lits i).length + matchLen i ≤ s.capN ∧
    s.ipN + i.byteLength ≤ s.inN ∧ matchDist i = 0 ∧ s.dist0 = .selfcopy ∧ { s with dist0 := .error }.dist0 = .error := by
  decide

/-- Each of the three errors, by one byte; an LM form on the stream that ends exactly behind its literals (V96's second cut, which
the decoder reads as an L token), of a short and of a long run. -/
theorem witness_TokenErrors :
    ∀ x ∈ ([(.lmSS [0x41] 3 1, dec [0x23, 0x41, 0x01, 0x00] 7 0 [] 0), (.lmSS [0x41] 3 1, dec [0x23, 0x41, 0x01] 8 0 [] 0),
      (.lmSS [0x41] 3 2, dec [0x23, 0x41, 0x02, 0x00] 8 0 [] 0), (.lmSS [0x41] 3 1, dec [0x23, 0x41] 8 0 [] 0),
      (.lmXS (str "0123456") 0 7, dec ([0xE0, 0x00] ++ str "0123456") 11 0 [] 0)] : List (Instr × State)),
      x.1.isToken = true ∧ x.1.wf = true ∧ x.2.inN ≤ 2147483631 ∧ x.2.capN ≤ 2147483631 ∧
      x.2.outMem.covers (x.2.capN + 16) = true ∧ x.2.ipN ≤ x.2.inN ∧ x.2.decOp ≤ x.2.capN ∧
      (x.2.capN < x.2.decOp + (lits x.1).length + matchLen x.1 ∨ x.2.inN < x.2.ipN + x.1.byteLength ∨
        x.2.decOp + (lits x.1).length < matchDist x.1) := by decide

/-- The two token forms R93 tells apart by the stream's end, run by hand against it (assumption 30). -/
theorem test_forms_by_hand :
    ends (exec (.lmSS [0x41] 3 1) (dec [0x23, 0x41] 8 0 [] 0)) (-1) [] = true ∧
    onNext (exec (.lS 3 [0x41]) (dec [0x23, 0x41, 0x01, 0x00] 8 0 [] 0)) (fun t =>
      decide (t.ipN = 2) && decide (t.decOp = 1) && decide (t.status = .busy)) = true := by decide

/-- A token that succeeds, and one that ends the command. -/
theorem witness_TokenIsItsPhases :
    (d1.status = .busy ∧ DecoderInv d1 ∧ d1.ipN < d1.inN ∧ streamRest d1 = some [0x23, 0x41, 0x01, 0x00] ∧
      decode [0x23, 0x41, 0x01, 0x00] = .ok (.lmSS [0x41] 3 1, []) ∧ d1.inMem.byte? d1.ipN = some 0x23 ∧
      exec (.lmSS [0x41] 3 1) d1 = .next (nextOf (exec (.lmSS [0x41] 3 1) d1)) ∧
      (nextOf (exec (.lmSS [0x41] 3 1) d1)).status = .busy) ∧
    (DecoderInv (dec [0x23, 0x41, 0x02, 0x00] 8 0 [] 0) ∧
      (nextOf (exec (.lmSS [0x41] 3 2) (dec [0x23, 0x41, 0x02, 0x00] 8 0 [] 0))).status = .done) :=
  ⟨⟨rfl, d1_decoder, by decide, by decide, by decide, by decide, next_of (by decide), by decide⟩,
    ⟨by unfold DecompressOperands; decide, by unfold BuffersReady; decide, by decide, by decide⟩, by decide⟩

theorem witness_BrokenStreamEndsInError :
    let s := dec [0x23, 0x41, 0x01] 8 0 [] 0
    s.status = .busy ∧ s.cmd = 1 ∧ s.ipN < s.inN ∧ streamRest s = some [0x23, 0x41, 0x01] ∧
    decode [0x23, 0x41, 0x01] = .error .fieldMissing := by decide

theorem witness_LoopExitReportsCount :
    (let s := dec [0x20, 0x41] 1 2 [0x41] 0
     s.status = .busy ∧ s.cmd = 1 ∧ s.ipN = s.inN) ∧
    (dec [0x20, 0x41] 1 3 [0x41] 0).inN < (dec [0x20, 0x41] 1 3 [0x41] 0).ipN := by decide

theorem witness_TokenMovesCursors :
    d1.status = .busy ∧ d1.cmd = 1 ∧ DecoderInv d1 ∧ d1.ipN < d1.inN ∧ step d1 = .next (nextOf (step d1)) ∧
    (nextOf (step d1)).status = .busy :=
  ⟨rfl, rfl, d1_decoder, by decide, next_of (by decide), by decide⟩

/-- A launch that succeeds and one that ends in an error. -/
theorem witness_DecompressCompletes :
    (DecompressReady (c3 4 8) ∧ ends (exec .decompress (c3 4 8)) 8 (str "AAAAAAAA") = true) ∧
    (DecompressReady (c3 4 7) ∧ ends (exec .decompress (c3 4 7)) (-1) [] = true) :=
  ⟨⟨c3_ready, by decide⟩, ⟨c3_small_ready, by decide⟩⟩

theorem witness_DecompressResultDependsOnStream :
    let s' := { c3 4 8 with outMem := Memory.ofBytes 0 (List.replicate 24 0), draws := 5 }
    DecompressReady (c3 4 8) ∧ DecompressReady s' ∧ (c3 4 8).inLen = s'.inLen ∧ (c3 4 8).outCap = s'.outCap ∧
    (c3 4 8).dist0 = s'.dist0 ∧ SameInput (c3 4 8) s' (c3 4 8).inN ∧
    exec .decompress (c3 4 8) = .next (nextOf (exec .decompress (c3 4 8))) ∧
    exec .decompress s' = .next (nextOf (exec .decompress s')) :=
  ⟨c3_ready, by unfold DecompressReady DecompressOperands BuffersReady; decide, rfl, rfl, rfl, fun _ _ => rfl,
    next_of (by decide), next_of (by decide)⟩

/-- V96: the stream cut behind its literal, and V97: the whole stream with a capacity one too small. -/
theorem witness_CutStreamGivesPrefixOrError :
    DataWf c1 ∧ CompressReady c1 ∧ exec .compress c1 = .next (nextOf (exec .compress c1)) ∧
    (DecompressReady (c3 2 8) ∧ (c3 2 8).inN ≤ (nextOf (exec .compress c1)).result.toNat ∧
      (∀ a, a < (c3 2 8).inN → (c3 2 8).inMem.byte? a = (nextOf (exec .compress c1)).outMem.byte? a) ∧
      exec .decompress (c3 2 8) = .next (nextOf (exec .decompress (c3 2 8)))) ∧
    (DecompressReady (c3 4 7) ∧ (c3 4 7).inN = (nextOf (exec .compress c1)).result.toNat ∧ (c3 4 7).capN < c1.inN ∧
      exec .decompress (c3 4 7) = .next (nextOf (exec .decompress (c3 4 7)))) :=
  ⟨c1_data, c1_ready, c1_runs,
    ⟨c3_cut_ready, by decide, by decide, next_of (by decide)⟩,
    ⟨c3_small_ready, by decide, by decide, next_of (by decide)⟩⟩

/-- Registers full of an earlier search's and an earlier token's values; what a PROBE keeps is equal. -/
theorem witness_NoRegisterCarriesOver :
    let m : MatchRegs := ⟨7, 7, 7, 7, e1.mf.bestLen, e1.mf.dist, 7, 7⟩
    let d : DecRegs := ⟨d1.dec.ip, d1.dec.op, 0xFF, 9, 9, 9⟩
    m ≠ e1.mf ∧ m.bestLen = e1.mf.bestLen ∧ m.dist = e1.mf.dist ∧
    d ≠ d1.dec ∧ (Instr.mS 0 1).isToken = true ∧ d.ip = d1.dec.ip ∧ d.op = d1.dec.op := by decide

/-- R23: an M token's run is 0, whatever an earlier token left in the register. -/
theorem test_mS_run : onNext (exec (.mS 1 5) { dec [0x01, 0x05, 0x00] 16 0 (str "abcdefdefd") 0 with
    dec := ⟨0, 10, 0xC0, 6, 4, 3⟩ }) (fun t =>
      decide (t.dec.run = 0) && decide (t.dec.len = 5) && decide (t.dec.dist = 5)) = true := by decide

end Sys2Proof.Tests
end

/-! SUPPORT. Frames: composition of `SameBut`, and the frames of the named updates of the state. -/

namespace Sys2Proof.Safety

open Sys2Proof.Machine

theorem Part.Same.refl (part : Part) (s : State) : part.Same s s := by
  cases part <;> simp [Part.Same]

theorem Part.Same.trans {part : Part} {s t u : State} (h : part.Same s t) (h' : part.Same t u) : part.Same s u := by
  cases part <;> simp_all [Part.Same]

theorem SameBut.refl (parts : List Part) (s : State) : SameBut parts s s := fun part _ => Part.Same.refl part s

theorem SameBut.trans {parts : List Part} {s t u : State} (h : SameBut parts s t) (h' : SameBut parts t u) :
    SameBut parts s u := fun part hp => (h part hp).trans (h' part hp)

theorem SameBut.mono {parts more : List Part} {s t : State} (h : SameBut parts s t) (hsub : parts ⊆ more) :
    SameBut more s t := fun part hp => h part fun hm => hp (hsub hm)

theorem sameBut_withDec (s : State) (v : DecRegs) : SameBut [.dec] s (s.withDec v) := by
  intro part hp
  cases part <;> simp_all [Part.Same]

theorem sameBut_withEnc (s : State) (v : EncRegs) : SameBut [.enc] s (s.withEnc v) := by
  intro part hp
  cases part <;> simp_all [Part.Same]

theorem sameBut_withOut (s : State) (v : Memory) : SameBut [.outMem] s (s.withOut v) := by
  intro part hp
  cases part <;> simp_all [Part.Same]

theorem sameBut_withMf_withDraws (s : State) (m : MatchRegs) (k : Nat) :
    SameBut [.mf, .draws] s ((s.withMf m).withDraws k) := by
  intro part hp
  cases part <;> simp_all [Part.Same]

theorem sameBut_withTail_withHead (s : State) (t h : Table) :
    SameBut [.head, .tail] s ((s.withTail t).withHead h) := by
  intro part hp
  cases part <;> simp_all [Part.Same]

theorem sameBut_clobber (s : State) (a n : Nat) : SameBut [.outMem, .draws] s (s.clobber a n) := by
  intro part hp
  cases part <;> simp_all [Part.Same]

theorem sameBut_beginToken (s : State) (tag : Byte) : SameBut [.dec, .draws] s (s.beginToken tag) := by
  intro part hp
  cases part <;> simp_all [Part.Same]

theorem sameBut_errorExit (s : State) : SameBut [.dec, .status, .result, .outMem, .draws] s (errorExit s) := by
  intro part hp
  cases part <;> simp_all [Part.Same]

theorem sameBut_finishDecompress (s : State) :
    SameBut [.dec, .status, .result, .outMem, .draws] s (finishDecompress s) := by
  intro part hp
  cases part <;> simp_all [Part.Same]

theorem sameBut_finishCompress (s : State) :
    SameBut [.enc, .mf, .status, .result, .outMem, .draws] s (finishCompress s) := by
  intro part hp
  cases part <;> simp_all [Part.Same]

theorem sameBut_launchDecompress (s : State) :
    SameBut [.dec, .status, .result, .draws] s (launchDecompress s) := by
  intro part hp
  cases part <;> simp_all [Part.Same, launchDecompress]

theorem sameBut_launchCompress (s : State) :
    SameBut [.head, .enc, .mf, .status, .result, .draws] s (launchCompress s) := by
  intro part hp
  cases part <;> simp_all [Part.Same, launchCompress, startCompressOp]

theorem CompressOperands.inLen_le {s : State} (h : CompressOperands s) : s.inN ≤ 2139095024 := by
  obtain ⟨-, -, hin, -, -⟩ := h
  exact hin

end Sys2Proof.Safety

/-! SUPPORT. Varint lengths, stores that succeed, and the rules about the Decoder's operations: what a phase of a token does to
the cursors and to OUT, and that it never faults on lent buffers. -/

namespace Sys2Proof.Proofs

open Sys2Proof.Machine Sys2Proof.Safety

/-! ## Varint lengths (R97) -/

/-- One more round of VARINT_ENC (R95) reaches 128 times as far. -/
theorem varintEncLoop_length_succ {n k : Nat} (h : ∀ fuel y, y < n → (varintEncLoop fuel y).length ≤ k) (fuel x : Nat)
    (hx : x < 128 * n + 128) : (varintEncLoop fuel x).length ≤ k + 1 := by
  cases fuel with
  | zero => simp [varintEncLoop]
  | succ fuel =>
    rw [varintEncLoop]
    split
    · next h128 =>
      have := h fuel ((x - 128) / 128) (by omega)
      simpa using this
    · simp

/-- The lengths of R97 as upper bounds. -/
theorem vlen_bounds (x : Nat) : (x < 128 → vlen x ≤ 1) ∧ (x < 16512 → vlen x ≤ 2) ∧ (x < 2113664 → vlen x ≤ 3) ∧
    (x < 34630287488 → vlen x ≤ 5) := by
  have h1 := varintEncLoop_length_succ (n := 0) (k := 0) (fun _ y hy => absurd hy (by omega))
  have h2 := varintEncLoop_length_succ h1
  have h3 := varintEncLoop_length_succ h2
  have h4 := varintEncLoop_length_succ h3
  have h5 := varintEncLoop_length_succ h4
  exact ⟨h1 x x, h2 x x, h3 x x, h5 x x⟩

/-! ## Registers and memory -/

theorem ofNat_toNat_of_lt {n : Nat} (h : n < 4294967296) : (Word.ofNat n).toNat = n := by
  simp only [Word.ofNat, BitVec.toNat_ofNat]
  omega

theorem capN_lt (s : State) : s.capN < 4294967296 := s.outCap.isLt
theorem inN_lt (s : State) : s.inN < 4294967296 := s.inLen.isLt

/-- Bytes are stored where all of their places were lent. -/
theorem setBytes?_succeeds : ∀ {bs : List Byte} {m : Memory} {a : Nat},
    (∀ k, k < bs.length → (m.byte? (a + k)).isSome = true) → ∃ m', m.setBytes? a bs = some m'
  | [], m, _, _ => ⟨m, rfl⟩
  | b :: bs, m, a, h => by
    have h0 : (m.set? a b).isSome = true := by rw [Memory.set?_isSome]; exact h 0 (by simp)
    obtain ⟨m1, hm1⟩ := Option.isSome_iff_exists.1 h0
    obtain ⟨m2, hm2⟩ := setBytes?_succeeds (bs := bs) (m := m1) (a := a + 1) fun k hk => by
      rw [Memory.byte?_isSome_iff_mem, Memory.addrs_set? hm1, ← Memory.byte?_isSome_iff_mem,
        show a + 1 + k = a + (k + 1) by omega]
      exact h (k + 1) (by simpa using hk)
    exact ⟨m2, by simp [Memory.setBytes?, hm1, hm2]⟩

theorem wildExtent_le (n : Nat) : wildExtent n ≤ n + 15 := by unfold wildExtent; omega

/-! ## What a phase of a token does -/

/-- `n` bytes of output from `k` bytes of stream: both cursors move on, the capacity and the stream's end are kept, OUT is
untouched behind the clobber zone (R63, R205), and nothing but OUT and the Decoder changes. -/
structure Advance (n k : Nat) (s t : State) : Prop where
  frame : SameBut [.dec, .outMem, .draws] s t
  addrs : t.outMem.addrs = s.outMem.addrs
  op : t.decOp = s.decOp + n
  opLe : s.decOp ≤ s.capN → t.decOp ≤ s.capN
  ip : s.inN ≤ 2147483631 → s.ipN ≤ s.inN → t.ipN = s.ipN + k ∧ t.ipN ≤ s.inN
  kept : ∀ a, t.decOp + 15 ≤ a → t.outMem.byte? a = s.outMem.byte? a

theorem Advance.inLen {n k : Nat} {s t : State} (h : Advance n k s t) : t.inLen = s.inLen := h.frame .inLen (by decide)
theorem Advance.outCap {n k : Nat} {s t : State} (h : Advance n k s t) : t.outCap = s.outCap := h.frame .outCap (by decide)

theorem advance_refl (s : State) : Advance 0 0 s s :=
  ⟨SameBut.refl _ s, rfl, rfl, id, fun _ h => ⟨rfl, h⟩, fun _ _ => rfl⟩

theorem Advance.trans {n k m l : Nat} {s t u : State} (h : Advance n k s t) (h' : Advance m l t u) :
    Advance (n + m) (k + l) s u where
  frame := h.frame.trans h'.frame
  addrs := h'.addrs.trans h.addrs
  op := by have := h.op; have := h'.op; omega
  opLe hs := by
    have ht := h'.opLe
    rw [State.capN, h.outCap] at ht
    exact ht (h.opLe hs)
  ip hin hs := by
    obtain ⟨ht, htin⟩ := h.ip hin hs
    have hu := h'.ip
    rw [State.inN, h.inLen] at hu
    obtain ⟨hu, huin⟩ := hu hin htin
    exact ⟨by omega, huin⟩
  kept a ha := by rw [h'.kept a ha, h.kept a (by have := h'.op; omega)]

/-- A phase behind a varint, whose bytes the stream holds (R204). -/
theorem Advance.of_skipVar {n k x : Nat} {s t : State} (h : Advance n k (skipVar x s) t) (hx : x < 34630287488)
    (hle : (skipVar x s).ipN ≤ s.inN) : Advance n (vlen x + k) s t where
  frame := ((sameBut_withDec s _).mono (by decide)).trans h.frame
  addrs := h.addrs
  op := h.op
  opLe := h.opLe
  ip hN hs := by
    obtain ⟨ht, htin⟩ := h.ip hN hle
    obtain ⟨-, -, -, hv⟩ := vlen_bounds x
    have hv := hv hx
    have hip : (skipVar x s).ipN = s.ipN + vlen x := ofNat_toNat_of_lt (by omega)
    exact ⟨by omega, htin⟩
  kept := h.kept

/-- The literal phase of a token (R203). -/
theorem tokenLits_advance {lits : List Byte} {s t : State} (h : tokenLits lits s = .ok t) :
    Advance lits.length lits.length s t := by
  obtain ⟨hcap, hin, out, ho, rfl⟩ := tokenLits_ok h
  have hcapLt := capN_lt s
  have hinLt := inN_lt s
  have hop : (Word.ofNat (s.decOp + lits.length)).toNat = s.decOp + lits.length := ofNat_toNat_of_lt (by omega)
  have hip : (Word.ofNat (s.ipN + lits.length)).toNat = s.ipN + lits.length := ofNat_toNat_of_lt (by omega)
  refine ⟨?_, ?_, hop, fun _ => hop.le.trans hcap, fun _ _ => ⟨hip, hip.le.trans hin⟩, fun a ha => ?_⟩
  · intro part hp
    cases part <;> simp_all [Part.Same, advanceRun]
  · simp [advanceRun, Memory.addrs_scramble, Memory.addrs_setBytes? ho]
  · have ha : s.decOp + lits.length + 15 ≤ a := hop ▸ ha
    have hE := wildExtent_le lits.length
    show Memory.byte? (Memory.scramble _ _ _ out) a = _
    rw [Memory.byte?_scramble_outside (by omega), Memory.byte?_setBytes?_outside ho (by omega)]

/-- A literal run whose varint was read first (R203, R204). -/
theorem longLits_advance {lits : List Byte} {s t : State} (h : longLits lits s = .ok t) :
    Advance lits.length (vlen (lits.length - 7) + lits.length) s t := by
  obtain ⟨hcap, hin, -⟩ := tokenLits_ok h
  have hcapLt := capN_lt (skipVar (lits.length - 7) s)
  exact (tokenLits_advance h).of_skipVar (by omega) (by exact Nat.le_of_add_right_le hin)

/-- MATCHCOPY (R208) writes OUT only, and nothing from 15 bytes behind the match on. -/
theorem matchcopyOp_effect {len : Nat} {dist : BitVec 17} {s t : State} (h : matchcopyOp len dist s = .ok t) :
    SameBut [.outMem, .draws] s t ∧ t.outMem.addrs = s.outMem.addrs ∧
      ∀ a, s.decOp + len + 15 ≤ a → t.outMem.byte? a = s.outMem.byte? a := by
  obtain ⟨-, ⟨-, hw⟩ | ⟨-, -, hb⟩ | ⟨-, -, rfl⟩⟩ := matchcopyOp_ok h
  · obtain ⟨out, ho, rfl⟩ := wildcopyOp_ok hw
    refine ⟨((sameBut_withOut s out).mono (by decide)).trans (sameBut_clobber _ _ _), ?_, fun a ha => ?_⟩
    · simp [Memory.addrs_scramble, copyLoop_addrs ho]
    · have hE := wildExtent_le len
      exact wildcopyOp_outside hw (by omega)
  · obtain ⟨out, ho, rfl⟩ := bytecopyOp_ok hb
    exact ⟨(sameBut_withOut s out).mono (by decide), copyLoop_addrs ho, fun a ha => copyLoop_outside ho (by omega)⟩
  · exact ⟨sameBut_clobber _ _ _, Memory.addrs_scramble _ _ _ _,
      fun a ha => Memory.byte?_scramble_outside (by omega)⟩

/-- The match phase of a token (R207). -/
theorem tokenMatch_advance {len : Nat} {dist : BitVec 17} {s t : State} (h : tokenMatch len dist s = .ok t) :
    Advance len 2 s t := by
  obtain ⟨hcap, hin, hm⟩ := tokenMatch_ok h
  obtain ⟨-, u, hu, rfl⟩ := matchTail_ok hm
  obtain ⟨frame, addrs, kept⟩ := matchcopyOp_effect hu
  have hdec : u.dec = _ := frame .dec (by decide)
  have hcapLt := capN_lt s
  have hinLt := inN_lt s
  have hop : (Word.ofNat (s.decOp + len)).toNat = s.decOp + len := ofNat_toNat_of_lt (by omega)
  have hip : (u.setDecOp (s.decOp + len)).ipN = s.ipN + 2 := by
    simp only [State.ipN, State.setDecOp_dec, hdec]
    exact ofNat_toNat_of_lt (hin.trans_lt hinLt)
  refine ⟨?_, addrs, hop, fun _ => hop.le.trans hcap, fun _ _ => ⟨hip, hip.le.trans hin⟩, fun a ha => ?_⟩
  · have before := (sameBut_withDec s { s.dec with len := len, ip := Word.ofNat (s.ipN + 2), dist := dist }).mono
      (more := [.dec, .outMem, .draws]) (by decide)
    exact (before.trans (frame.mono (by decide))).trans ((sameBut_withDec u _).mono (by decide))
  · exact kept a (hop ▸ ha)

/-- A match phase with an extended length field (R98, R204). -/
theorem longMatch_advance {lenVar : Nat} {dist : BitVec 17} {s t : State} (h : longMatch lenVar dist s = .ok t) :
    Advance (longMatchLen lenVar) (vlen lenVar + 2) s t := by
  obtain ⟨hcap, hin, -⟩ := tokenMatch_ok h
  have hcapLt := capN_lt (skipVar lenVar s)
  unfold longMatchLen at hcap
  exact (tokenMatch_advance h).of_skipVar (by omega) (by exact Nat.le_of_add_right_le hin)

end Sys2Proof.Proofs

/-! SUPPORT. The eight token forms as one: a token takes its tag, then runs its literal phase, then its match phase. -/

namespace Sys2Proof.Proofs

open Sys2Proof.Machine Sys2Proof.Safety

/-! ## A token's parts (R92, R201) -/

/-- The tag byte of a token (R91). -/
def tokenTag : Instr → Byte
  | .mX _ dist => mkTag 0 (distHi dist) 15
  | .mS lenCode dist => mkTag 0 (distHi dist) lenCode.toNat
  | .lmXX _ _ dist => mkTag 7 (distHi dist) 15
  | .lmXS _ lenCode dist => mkTag 7 (distHi dist) lenCode.toNat
  | .lmSX lits _ dist => mkTag lits.length (distHi dist) 15
  | .lmSS lits lenCode dist => mkTag lits.length (distHi dist) lenCode.toNat
  | .lX low _ => mkTag 7 0 low.toNat
  | .lS low lits => mkTag lits.length 0 low.toNat
  | _ => 0

/-- The literal phase of a token; an M token has none. -/
def litPart : Instr → State → Except Stop State
  | .lmXX lits .. | .lmXS lits .. | .lX _ lits => longLits lits
  | .lmSX lits .. | .lmSS lits .. | .lS _ lits => shortLits lits
  | _ => .ok

/-- The match phase of a token; an L token has none. -/
def matchPart : Instr → State → Except Stop State
  | .mX lenVar dist | .lmXX _ lenVar dist | .lmSX _ lenVar dist => longMatch lenVar dist
  | .mS lenCode dist | .lmXS _ lenCode dist | .lmSS _ lenCode dist => shortMatch lenCode dist
  | _ => .ok

/-- A token behind its tag: the literal phase, then the match phase. -/
def tokenBody (i : Instr) (s : State) : Except Stop State := phases (litPart i (takeTag (tokenTag i) s)) (matchPart i)

theorem phases_ok_right (r : Except Stop State) : phases r .ok = r := by cases r <;> rfl

/-- Every token form is its tag and its two phases. -/
theorem exec_token {i : Instr} (h : i.isToken = true) (s : State) : exec i s = conclude s (tokenBody i s) := by
  cases i
  case mX | mS | lmXX | lmXS | lmSX | lmSS => rfl
  case lX | lS => exact congrArg (conclude s) (phases_ok_right _).symm
  all_goals cases h

theorem execToken_eq_exec {i : Instr} (h : i.isToken = true) (s : State) : execToken i s = exec i s := by
  cases i
  case mX | mS | lmXX | lmXS | lmSX | lmSS | lX | lS => rfl
  all_goals cases h

theorem litPart_advance {i : Instr} {s t : State} (h : litPart i s = .ok t) :
    ∃ k, Advance (lits i).length k s t := by
  cases i
  case lmXX | lmXS | lX => exact ⟨_, longLits_advance h⟩
  case lmSX | lmSS | lS => exact ⟨_, tokenLits_advance h⟩
  all_goals cases h; exact ⟨0, advance_refl s⟩

theorem matchPart_advance {i : Instr} {s t : State} (h : matchPart i s = .ok t) :
    ∃ k, Advance (matchLen i) k s t := by
  cases i
  case mX | lmXX | lmSX => exact ⟨_, longMatch_advance h⟩
  case mS | lmXS | lmSS => exact ⟨_, tokenMatch_advance h⟩
  all_goals cases h; exact ⟨0, advance_refl s⟩

/-- Behind its tag a token advances both cursors by what it decodes to (R203, R207, R214). -/
theorem tokenBody_advance {i : Instr} {s t : State} (h : tokenBody i s = .ok t) :
    ∃ k, Advance ((lits i).length + matchLen i) k (takeTag (tokenTag i) s) t := by
  obtain ⟨u, hu, ht⟩ := phases_ok h
  obtain ⟨k, hk⟩ := litPart_advance hu
  obtain ⟨l, hl⟩ := matchPart_advance ht
  exact ⟨k + l, hk.trans hl⟩

/-- Taking the tag (R202) is one byte of stream and no output. -/
theorem takeTag_advance {s : State} (tag : Byte) (h : s.ipN < s.inN) : Advance 0 1 s (takeTag tag s) where
  frame := ((sameBut_withDec s _).mono (by decide)).trans ((sameBut_beginToken _ tag).mono (by decide))
  addrs := rfl
  op := rfl
  opLe := id
  ip _ _ := by
    have hinLt := inN_lt s
    have hip : (takeTag tag s).ipN = s.ipN + 1 := ofNat_toNat_of_lt (by omega)
    omega
  kept _ _ := rfl

/-! ## The decoder yields tokens that write -/

theorem decodeMatch_ok {P : Instr → Prop} {tag : Byte} {bs rest : List Byte} {short : BitVec 4 → BitVec 17 → Instr}
    {long : Nat → BitVec 17 → Instr} {i : Instr} (hs : ∀ c d, P (short c d)) (hl : ∀ x d, P (long x d))
    (h : decodeMatch tag bs short long = .ok (i, rest)) : P i := by
  unfold decodeMatch at h
  split at h
  · split at h
    · cases h
    · split at h
      · cases h
      · cases h; exact hl _ _
  · split at h
    · cases h
    · cases h; exact hs _ _

theorem decodeLits_ok {P : Instr → Prop} {run : Nat} {tag : Byte} {bs rest : List Byte}
    {final : BitVec 5 → List Byte → Instr} {short : List Byte → BitVec 4 → BitVec 17 → Instr}
    {long : List Byte → Nat → BitVec 17 → Instr} {i : Instr} (hf : ∀ low ls, ls.length = run → P (final low ls))
    (hs : ∀ ls c d, ls.length = run → P (short ls c d)) (hl : ∀ ls x d, ls.length = run → P (long ls x d))
    (h : decodeLits run tag bs final short long = .ok (i, rest)) : P i := by
  unfold decodeLits at h
  split at h
  · cases h
  · next hlen =>
    have htake : (bs.take run).length = run := by simp only [List.length_take]; omega
    split at h
    · cases h; exact hf _ _ htake
    · exact decodeMatch_ok (fun c d => hs _ c d htake) (fun x d => hl _ x d htake) h

/-- A token that carries a literal or a match. -/
def WritingToken (i : Instr) : Prop := i.isToken = true ∧ 0 < (lits i).length + matchLen i

/-- The decoder yields tokens only (R103), and each writes at least one byte (R94, R98). -/
theorem decode_writingToken {bs rest : List Byte} {i : Instr} (h : decode bs = .ok (i, rest)) : WritingToken i := by
  cases bs with
  | nil => cases h
  | cons tag bs =>
    rw [decode] at h
    split at h
    · refine decodeMatch_ok (P := WritingToken) ?_ ?_ h
      all_goals intros; exact ⟨rfl, by simp only [lits, matchLen]; omega⟩
    · next hrun =>
      split at h
      · split at h
        · cases h
        · refine decodeLits_ok (P := WritingToken) ?_ ?_ ?_ h
          all_goals intros; exact ⟨rfl, by simp only [lits, matchLen]; omega⟩
      · refine decodeLits_ok (P := WritingToken) ?_ ?_ ?_ h
        all_goals intros; exact ⟨rfl, by simp only [lits, matchLen]; omega⟩

/-! ## On lent buffers a token finishes or raises an error -/

/-- The operation finishes or raises an error (R241); it neither faults nor is refused. -/
def Completes (r : Except Stop State) : Prop := ∀ e, r = .error e → ∃ c, e = .raise c

theorem Completes.conclude {r : Except Stop State} (h : Completes r) (s : State) :
    ∃ t, Machine.conclude s r = .next t := by
  cases r with
  | ok t => exact ⟨t, rfl⟩
  | error e =>
    obtain ⟨c, rfl⟩ := h e rfl
    exact ⟨errorExit s, rfl⟩

theorem completes_ok (t : State) : Completes (.ok t) := fun _ h => nomatch h

theorem phases_completes {r : Except Stop State} {f : State → Except Stop State} (hr : Completes r)
    (hf : ∀ t, r = .ok t → Completes (f t)) : Completes (phases r f) := by
  cases r with
  | ok t => exact hf t rfl
  | error e => exact hr

theorem checkRun_completes {run : Nat} {s : State} {e : Stop} (h : checkRun run s = .error e) : ∃ c, e = .raise c := by
  unfold checkRun at h
  split at h
  · cases h; exact ⟨_, rfl⟩
  · split at h <;> cases h
    exact ⟨_, rfl⟩

theorem checkMatch_completes {len : Nat} {s : State} {e : Stop} (h : checkMatch len s = .error e) :
    ∃ c, e = .raise c := by
  unfold checkMatch at h
  split at h
  · cases h; exact ⟨_, rfl⟩
  · split at h <;> cases h
    exact ⟨_, rfl⟩

theorem tokenLits_completes (lits : List Byte) {s : State} (hc : s.outMem.covers (s.capN + 16) = true) :
    Completes (tokenLits lits s) := by
  intro e h
  unfold tokenLits at h
  dsimp only at h
  split at h
  · next hcheck => cases h; exact checkRun_completes hcheck
  · next hcheck =>
    obtain ⟨hcap, -⟩ := checkRun_ok hcheck
    rw [Memory.covers_iff] at hc
    obtain ⟨out, ho⟩ := setBytes?_succeeds (bs := lits) (m := s.outMem) (a := s.decOp) fun k hk =>
      hc _ (by simp only [State.decOp, State.capN, State.setDecRun_dec, State.setDecRun_outCap] at hcap ⊢; omega)
    rw [show (s.setDecRun lits.length).outMem.setBytes? (s.setDecRun lits.length).decOp lits = some out from ho] at h
    cases h

theorem matchcopyOp_completes {len : Nat} {dist : BitVec 17} {s : State}
    (hc : s.outMem.covers (s.capN + 16) = true) (hcap : s.decOp + len ≤ s.capN) (hd : dist.toNat ≤ s.decOp) :
    Completes (matchcopyOp len dist s) := by
  rw [Memory.covers_iff] at hc
  obtain ⟨out, ho⟩ := copyLoop_succeeds (inM := s.inMem) (src := .output) (n := len) (d := s.decOp)
    (s := s.decOp - dist.toNat) (out := s.outMem) (fun k hk => hc _ (by omega)) (fun k hk => hc _ (by omega))
  unfold matchcopyOp
  rw [if_neg (by omega)]
  split
  · rw [wildcopyOp, ho]; exact completes_ok _
  · split
    · rw [bytecopyOp, ho]; exact completes_ok _
    · split
      · exact completes_ok _
      · rintro e ⟨⟩; exact ⟨_, rfl⟩

theorem matchTail_completes {len : Nat} {dist : BitVec 17} {s : State}
    (hc : s.outMem.covers (s.capN + 16) = true) (hcap : s.decOp + len ≤ s.capN) : Completes (matchTail len dist s) := by
  intro e h
  unfold matchTail at h
  dsimp only at h
  split at h
  · cases h; exact ⟨_, rfl⟩
  · next hd =>
    have hm := matchcopyOp_completes (len := len) (s := (s.setIp (s.ipN + 2)).setDecDist dist) hc hcap (Nat.le_of_not_lt hd)
    split at h
    · next he => cases h; exact hm _ he
    · cases h

theorem tokenMatch_completes (len : Nat) (dist : BitVec 17) {s : State}
    (hc : s.outMem.covers (s.capN + 16) = true) : Completes (tokenMatch len dist s) := by
  intro e h
  unfold tokenMatch at h
  dsimp only at h
  split at h
  · next hcheck => cases h; exact checkMatch_completes hcheck
  · next hcheck => exact matchTail_completes (s := s.setDecLen len) hc (checkMatch_ok hcheck).1 e h

theorem litPart_completes (i : Instr) {s : State} (hc : s.outMem.covers (s.capN + 16) = true) :
    Completes (litPart i s) := by
  cases i
  case lmXX l _ _ | lmXS l _ _ | lX _ l => exact tokenLits_completes l (s := skipVar (l.length - 7) s) hc
  case lmSX l _ _ | lmSS l _ _ | lS _ l => exact tokenLits_completes l hc
  all_goals exact completes_ok s

theorem matchPart_completes (i : Instr) {s : State} (hc : s.outMem.covers (s.capN + 16) = true) :
    Completes (matchPart i s) := by
  cases i
  case mX x _ | lmXX x _ | lmSX x _ => exact tokenMatch_completes _ _ (s := skipVar x s) hc
  case mS | lmXS | lmSS => exact tokenMatch_completes _ _ hc
  all_goals exact completes_ok s

/-- Where OUT with its slack was lent (R63), a token faults nowhere. -/
theorem tokenBody_completes (i : Instr) {s : State} (hc : s.outMem.covers (s.capN + 16) = true) :
    Completes (tokenBody i s) := by
  refine phases_completes (litPart_completes i hc) fun t ht => matchPart_completes i ?_
  obtain ⟨k, hk⟩ := litPart_advance ht
  rw [State.capN, hk.outCap, Memory.covers_of_addrs hk.addrs]
  exact hc

end Sys2Proof.Proofs

/-! SUPPORT. The rules about the Encoder's operations: none raises an error, what an emission writes at most, what an insertion
does to the tables, and what a DECIDE does as a whole. -/

namespace Sys2Proof.Proofs

open Sys2Proof.Machine Sys2Proof.Safety

/-! ## The Encoder's operations as phases, one after another -/

theorem emitHead_eq (hi code : Nat) (s : State) : emitHead hi code s =
    if s.runN = 0 then putBytes [mkTag 0 hi code] s
    else phases (putBytes [mkTag (min s.runN 7) hi code] s) fun t =>
      phases (if 7 ≤ s.runN then emitvarOp (s.runN - 7) t else .ok t) literalCopy := rfl

theorem emitMatchOp_eq (s : State) : emitMatchOp s =
    if s.bestN < 4 ∨ s.distN = 0 ∨ 131071 < s.distN ∨ s.pN < s.runN then .error (.refuse .outsideDomain)
    else phases (emitHead (distHi (BitVec.ofNat 17 s.distN)) (min (s.bestN - 4) 15) s) fun t =>
      phases (if 15 ≤ s.bestN - 4 then emitvarOp (s.bestN - 4 - 15) t else .ok t)
        (putBytes (dist16 (BitVec.ofNat 17 s.distN))) := rfl

theorem literalCopy_eq (s : State) : literalCopy s =
    phases (wildcopyOp .input s.encOp (s.pN - s.runN) s.runN s) fun t => .ok (t.setEncOp (s.encOp + s.runN)) := rfl

theorem insertRange_succ (n q : Nat) (s : State) :
    insertRange (n + 1) q s = phases (insertOp q s) (insertRange n (q + 1)) := rfl

theorem acceptOp_eq (s : State) : acceptOp s =
    phases (insertRange s.bestN s.pN s) fun t => .ok ((t.setP (s.pN + s.bestN)).setRun 0) := rfl

theorem literalOp_eq (s : State) : literalOp s =
    phases (insertOp s.pN s) fun t => .ok ((t.setRun (s.runN + 1)).setP (s.pN + 1)) := rfl

theorem commitOp_eq (s : State) : commitOp s =
    if matchSurvives s = true then phases (emitMatchOp s) acceptOp else literalOp s := rfl

theorem decideOp_eq (s : State) : decideOp s =
    phases (searchOp s) fun t => phases (lazyOp (suppressOp t)) commitOp := rfl

/-! ## The Encoder raises no error (R240 lists causes of the Decoder only) -/

/-- The operation does not end by `raise Error` (R241). -/
def NeverRaises {α : Type} (r : Except Stop α) : Prop := ∀ c, r ≠ .error (.raise c)

theorem neverRaises_ok {α : Type} (a : α) : NeverRaises (.ok a : Except Stop α) := fun _ h => nomatch h
theorem neverRaises_fault {α : Type} (f : Fault) : NeverRaises (.error (.fault f) : Except Stop α) := fun _ h => nomatch h
theorem neverRaises_refuse {α : Type} (r : Refusal) : NeverRaises (.error (.refuse r) : Except Stop α) :=
  fun _ h => nomatch h

theorem phases_neverRaises {r : Except Stop State} {f : State → Except Stop State} (hr : NeverRaises r)
    (hf : ∀ t, NeverRaises (f t)) : NeverRaises (phases r f) := by
  cases r with
  | ok t => exact hf t
  | error e => exact hr

/-- Such an instruction ends in a next state only by finishing. -/
theorem conclude_next_of_neverRaises {s t : State} {r : Except Stop State} (hr : NeverRaises r)
    (h : conclude s r = .next t) : r = .ok t := by
  rcases conclude_next h with h | ⟨c, hc, -⟩
  · exact h
  · exact absurd hc (hr c)

theorem putBytes_neverRaises (bs : List Byte) (s : State) : NeverRaises (putBytes bs s) := by
  unfold putBytes
  split
  · exact neverRaises_fault _
  · exact neverRaises_ok _

theorem wildcopyOp_neverRaises (src : Space) (d s n : Nat) (st : State) : NeverRaises (wildcopyOp src d s n st) := by
  unfold wildcopyOp
  split
  · exact neverRaises_fault _
  · exact neverRaises_ok _

theorem emitvarOr_neverRaises (b : Prop) [Decidable b] (x : Nat) (t : State) :
    NeverRaises (if b then emitvarOp x t else .ok t) := by
  split
  · exact putBytes_neverRaises _ _
  · exact neverRaises_ok _

theorem emitHead_neverRaises (hi code : Nat) (s : State) : NeverRaises (emitHead hi code s) := by
  rw [emitHead_eq]
  split
  · exact putBytes_neverRaises _ _
  · refine phases_neverRaises (putBytes_neverRaises _ _) fun t => ?_
    refine phases_neverRaises (emitvarOr_neverRaises _ _ t) fun u => ?_
    exact phases_neverRaises (wildcopyOp_neverRaises _ _ _ _ _) fun _ => neverRaises_ok _

theorem emitMatchOp_neverRaises (s : State) : NeverRaises (emitMatchOp s) := by
  rw [emitMatchOp_eq]
  split
  · exact neverRaises_refuse _
  · exact phases_neverRaises (emitHead_neverRaises _ _ _) fun t =>
      phases_neverRaises (emitvarOr_neverRaises _ _ t) (putBytes_neverRaises _)

theorem emitFinalOp_neverRaises (s : State) : NeverRaises (emitFinalOp s) := by
  unfold emitFinalOp
  split
  · exact neverRaises_ok _
  · split
    · exact neverRaises_refuse _
    · exact emitHead_neverRaises _ _ _

theorem insertOp_neverRaises (q : Nat) (s : State) : NeverRaises (insertOp q s) := by
  unfold insertOp
  split
  · exact neverRaises_refuse _
  · split
    · exact neverRaises_fault _
    · exact neverRaises_ok _

theorem insertRange_neverRaises : ∀ (n q : Nat) (s : State), NeverRaises (insertRange n q s)
  | 0, _, s => neverRaises_ok s
  | n + 1, q, s => phases_neverRaises (insertOp_neverRaises q s) (insertRange_neverRaises n (q + 1))

theorem findMatchOp_neverRaises (p : Nat) (s : State) : NeverRaises (findMatchOp p s) := by
  unfold findMatchOp
  split
  · exact neverRaises_refuse _
  · split
    · exact neverRaises_ok _
    · split
      · exact neverRaises_fault _
      · dsimp only
        split <;> exact neverRaises_ok _

theorem probeOp_neverRaises (x n : Nat) (s : State) : NeverRaises (probeOp x n s) := by
  unfold probeOp
  split
  · exact neverRaises_ok _
  · split
    · exact neverRaises_fault _
    · exact neverRaises_ok _

theorem searchOp_neverRaises (s : State) : NeverRaises (searchOp s) := by
  intro c h
  unfold searchOp at h
  split at h
  · next hf => cases h; exact findMatchOp_neverRaises _ _ c hf
  · cases h
  · cases h

theorem lazyOp_neverRaises (s : State) : NeverRaises (lazyOp s) := by
  intro c h
  unfold lazyOp at h
  split at h
  · split at h
    · next hp => cases h; exact probeOp_neverRaises _ _ _ c hp
    · cases h
    · split at h
      · next hp => cases h; exact probeOp_neverRaises _ _ _ c hp
      · cases h
      · cases h
  · cases h

theorem commitOp_neverRaises (s : State) : NeverRaises (commitOp s) := by
  rw [commitOp_eq]
  split
  · exact phases_neverRaises (emitMatchOp_neverRaises s) fun t =>
      phases_neverRaises (insertRange_neverRaises _ _ _) fun _ => neverRaises_ok _
  · exact phases_neverRaises (insertOp_neverRaises _ _) fun _ => neverRaises_ok _

theorem decideOp_neverRaises (s : State) : NeverRaises (decideOp s) :=
  phases_neverRaises (searchOp_neverRaises s) fun _ => phases_neverRaises (lazyOp_neverRaises _) commitOp_neverRaises

/-! ## Emission (R165, R166, R169) -/

/-- At most `n` bytes written at the Encoder's output cursor, `p` and `run` kept. -/
structure Emits (n : Nat) (s t : State) : Prop where
  frame : SameBut [.enc, .outMem, .draws] s t
  addrs : t.outMem.addrs = s.outMem.addrs
  p : t.pN = s.pN
  run : t.runN = s.runN
  op : t.encOp ≤ s.encOp + n

theorem emits_refl (s : State) : Emits 0 s s := ⟨SameBut.refl _ s, rfl, rfl, rfl, le_rfl⟩

theorem Emits.trans {n m : Nat} {s t u : State} (h : Emits n s t) (h' : Emits m t u) : Emits (n + m) s u :=
  ⟨h.frame.trans h'.frame, h'.addrs.trans h.addrs, h'.p.trans h.p, h'.run.trans h.run,
    by have := h.op; have := h'.op; omega⟩

theorem ofNat_toNat_le (n : Nat) : (Word.ofNat n).toNat ≤ n := by
  simp only [Word.ofNat, BitVec.toNat_ofNat]
  exact Nat.mod_le _ _

theorem putBytes_emits {bs : List Byte} {s t : State} (h : putBytes bs s = .ok t) : Emits bs.length s t := by
  obtain ⟨out, ho, rfl⟩ := putBytes_ok h
  exact ⟨((sameBut_withOut s out).mono (by decide)).trans ((sameBut_withEnc _ _).mono (by decide)),
    Memory.addrs_setBytes? ho, rfl, rfl, ofNat_toNat_le _⟩

theorem literalCopy_emits {s t : State} (h : literalCopy s = .ok t) : Emits s.runN s t := by
  obtain ⟨u, hu, ht⟩ := phases_ok (literalCopy_eq s ▸ h)
  obtain ⟨out, ho, rfl⟩ := wildcopyOp_ok hu
  cases ht
  refine ⟨?_, ?_, rfl, rfl, ofNat_toNat_le _⟩
  · exact (((sameBut_withOut s out).mono (by decide)).trans ((sameBut_clobber _ _ _).mono (by decide))).trans
      ((sameBut_withEnc _ _).mono (by decide))
  · simp [Memory.addrs_scramble, copyLoop_addrs ho]

/-- The bytes of a varint that is there only where `b` holds. -/
def optVlen (b : Prop) [Decidable b] (x : Nat) : Nat := if b then vlen x else 0

theorem emitvarOr_emits {b : Prop} [Decidable b] {x : Nat} {s t : State}
    (h : (if b then emitvarOp x s else .ok s) = .ok t) : Emits (optVlen b x) s t := by
  unfold optVlen
  split at h
  · next hb => rw [if_pos hb]; exact putBytes_emits h
  · next hb => rw [if_neg hb]; cases h; exact emits_refl s

theorem emitHead_emits {hi code : Nat} {s t : State} (h : emitHead hi code s = .ok t) :
    Emits (1 + (optVlen (7 ≤ s.runN) (s.runN - 7) + s.runN)) s t := by
  rw [emitHead_eq] at h
  split at h
  · next hrun =>
    have he := putBytes_emits h
    exact ⟨he.frame, he.addrs, he.p, he.run, he.op.trans (by simp only [List.length_singleton]; omega)⟩
  · obtain ⟨u, hu, h⟩ := phases_ok h
    obtain ⟨v, hv, h⟩ := phases_ok h
    have hu := putBytes_emits hu
    have hv := emitvarOr_emits hv
    have ht := literalCopy_emits h
    rw [hv.run, hu.run] at ht
    exact hu.trans (hv.trans ht)

/-- The length of a token with `run` literals and a match of `best` bytes (R100). -/
def matchTokenLen (run best : Nat) : Nat :=
  1 + (optVlen (7 ≤ run) (run - 7) + run) + (optVlen (15 ≤ best - 4) (best - 4 - 15) + 2)

theorem emitMatchOp_emits {s t : State} (h : emitMatchOp s = .ok t) : Emits (matchTokenLen s.runN s.bestN) s t := by
  rw [emitMatchOp_eq] at h
  split at h
  · cases h
  · obtain ⟨u, hu, h⟩ := phases_ok h
    obtain ⟨v, hv, h⟩ := phases_ok h
    exact (emitHead_emits hu).trans ((emitvarOr_emits hv).trans (putBytes_emits h))

/-! ## Insertion (R132, R133) -/

/-- What every INSERT keeps and moves on by one position, a range of them moves on by its length. -/
theorem insertRange_keeps {P : Nat → State → Prop} (hP : ∀ q s t, P q s → insertOp q s = .ok t → P (q + 1) t) :
    ∀ {n q : Nat} {s t : State}, P q s → insertRange n q s = .ok t → P (q + n) t
  | 0, _, _, _, hs, h => by cases h; exact hs
  | n + 1, q, s, t, hs, h => by
    obtain ⟨u, hu, ht⟩ := phases_ok (insertRange_succ n q s ▸ h)
    have := insertRange_keeps hP (hP q s u hs hu) ht
    rwa [show q + (n + 1) = q + 1 + n by omega]

theorem insertOp_frame {q : Nat} {s t : State} (h : insertOp q s = .ok t) : SameBut [.head, .tail] s t := by
  obtain ⟨-, k, -, rfl⟩ := insertOp_ok h
  exact sameBut_withTail_withHead s _ _

/-- A range of INSERTs changes the tables alone and stays inside the input. -/
theorem insertRange_frame {n q : Nat} {s t : State} (hq : q ≤ s.inN) (h : insertRange n q s = .ok t) :
    SameBut [.head, .tail] s t ∧ q + n ≤ s.inN := by
  refine insertRange_keeps (P := fun q u => SameBut [.head, .tail] s u ∧ q ≤ s.inN) ?_ ⟨SameBut.refl _ s, hq⟩ h
  rintro q u v ⟨hu, -⟩ hv
  obtain ⟨hlt, -⟩ := insertOp_ok hv
  rw [State.inN, hu .inLen (by decide)] at hlt
  exact ⟨hu.trans (insertOp_frame hv), hlt⟩

theorem insertOp_dataWf {q : Nat} {s t : State} (hw : DataWf s) (h : insertOp q s = .ok t) : DataWf t := by
  obtain ⟨-, k, -, rfl⟩ := insertOp_ok h
  exact ⟨hw.inMem, hw.outMem, Table.set_wf k.isLt hw.head, Table.set_wf (by omega) hw.tail⟩

theorem insertRange_dataWf {n q : Nat} {s t : State} (hw : DataWf s) (h : insertRange n q s = .ok t) : DataWf t :=
  insertRange_keeps (P := fun _ u => DataWf u) (fun _ _ _ hu => insertOp_dataWf hu) hw h

theorem toInt_ofNat_of_lt {n : Nat} (h : n < 2147483648) : (Word.ofNat n).toInt = n := by
  rw [BitVec.toInt_eq_toNat_of_lt, ofNat_toNat_of_lt (by omega)]
  rw [ofNat_toNat_of_lt (by omega)]
  omega

theorem tablesBelow_congr {s t : State} (h : TablesBelow s) (hh : t.head = s.head) (ht : t.tail = s.tail)
    (hp : t.pN = s.pN) : TablesBelow t := by
  constructor
  · rw [hh, hp]; exact h.head
  · rw [ht, hp]; exact h.tail

theorem setP_pN {s : State} {q : Nat} (h : q ≤ s.inN) : (s.setP q).pN = q :=
  ofNat_toNat_of_lt (h.trans_lt (inN_lt s))

/-- INSERT at `q` keeps every entry a walk may read an earlier position (R32, R33). -/
theorem insertOp_tablesBelow {q : Nat} {s t : State} (hw : DataWf s) (hN : s.inN ≤ 2139095024)
    (hb : TablesBelow (s.setP q)) (h : insertOp q s = .ok t) : TablesBelow (t.setP (q + 1)) := by
  obtain ⟨hq, k, -, rfl⟩ := insertOp_ok h
  obtain ⟨hhead, htail⟩ := hb
  rw [setP_pN hq.le] at hhead htail
  have hp : ((((s.withTail (s.tail.set (q % 131072) (s.head.get k.toNat))).withHead
      (s.head.set k.toNat (Word.ofNat q)))).setP (q + 1)).pN = q + 1 := setP_pN hq
  constructor
  · intro j
    rw [hp]
    simp only [State.setP_head, State.withHead_head, Table.get_set hw.head]
    split
    · rw [toInt_ofNat_of_lt (by omega)]; omega
    · have := hhead j
      simp only [State.setP_head] at this
      omega
  · intro r hr hwin
    rw [hp] at hr hwin
    simp only [State.setP_tail, State.withHead_tail, State.withTail_tail, Table.get_set hw.tail]
    by_cases hrq : r = q
    · subst hrq
      rw [if_pos rfl]
      exact hhead k.toNat
    · rw [if_neg (by omega)]
      exact htail r (by omega) (by omega)

theorem insertRange_tablesBelow {n q : Nat} {s t : State} (hw : DataWf s) (hN : s.inN ≤ 2139095024)
    (hb : TablesBelow (s.setP q)) (h : insertRange n q s = .ok t) : TablesBelow (t.setP (q + n)) := by
  suffices DataWf t ∧ t.inN ≤ 2139095024 ∧ TablesBelow (t.setP (q + n)) by
    obtain ⟨-, -, hbt⟩ := this
    exact hbt
  refine insertRange_keeps (P := fun q u => DataWf u ∧ u.inN ≤ 2139095024 ∧ TablesBelow (u.setP q)) ?_ ⟨hw, hN, hb⟩ h
  rintro q u v ⟨huw, huN, hub⟩ hv
  have hin : v.inLen = u.inLen := insertOp_frame hv .inLen (by decide)
  exact ⟨insertOp_dataWf huw hv, by rw [State.inN, hin]; exact huN, insertOp_tablesBelow huw huN hub hv⟩

theorem tableInvariant_congr {tail0 : Table} {s t : State} (h : TableInvariant tail0 s) (hh : t.head = s.head)
    (ht : t.tail = s.tail) (hp : t.pN = s.pN) (hm : t.inMem = s.inMem) : TableInvariant tail0 t := by
  constructor
  · rw [hh, hp, hm]; exact h.headGreatest
  · rw [hh, hp, hm]; exact h.headIs
  · rw [ht, hp, hm]; exact h.tailGreatest
  · rw [ht, hp, hm]; exact h.tailIs
  · rw [ht, hp]; exact h.tailKept

/-- INSERT at `q` carries the table invariant (R32) from `q` inserted positions to `q + 1`. -/
theorem insertOp_tableInvariant {tail0 : Table} {q : Nat} {s t : State} (hw : DataWf s) (hN : s.inN ≤ 2139095024)
    (hi : TableInvariant tail0 (s.setP q)) (h : insertOp q s = .ok t) : TableInvariant tail0 (t.setP (q + 1)) := by
  obtain ⟨hq, k, hk, rfl⟩ := insertOp_ok h
  obtain ⟨headGreatest, headIs, tailGreatest, tailIs, tailKept⟩ := hi
  rw [setP_pN hq.le] at headGreatest headIs tailGreatest tailIs tailKept
  simp only [State.setP_head, State.setP_tail, State.setP_inMem] at headGreatest headIs tailGreatest tailIs tailKept
  have hp : ((((s.withTail (s.tail.set (q % 131072) (s.head.get k.toNat))).withHead
      (s.head.set k.toNat (Word.ofNat q)))).setP (q + 1)).pN = q + 1 := setP_pN hq
  constructor <;> rw [hp] <;>
    simp only [State.setP_head, State.setP_tail, State.setP_inMem, State.withHead_head, State.withHead_tail,
      State.withHead_inMem, State.withTail_tail, State.withTail_inMem, Table.get_set hw.head, Table.get_set hw.tail]
  case headGreatest =>
    intro j r hr hj
    split
    · rw [toInt_ofNat_of_lt (by omega)]; omega
    · next hne =>
      refine headGreatest j r ?_ hj
      have : r ≠ q := by
        rintro rfl
        rw [hk] at hj
        cases hj
        exact hne rfl
      omega
  case headIs =>
    intro j
    split
    · next hj => exact .inr ⟨q, by omega, by rw [hk, BitVec.toNat_inj.1 hj], rfl⟩
    · rcases headIs j with hnil | ⟨r, hr, hrest⟩
      · exact .inl hnil
      · exact .inr ⟨r, by omega, hrest⟩
  case tailGreatest =>
    intro r r' hr hwin hlt hh
    by_cases hrq : r = q
    · subst hrq
      rw [if_pos rfl]
      exact headGreatest k r' hlt (hh.trans hk)
    · rw [if_neg (by omega)]
      exact tailGreatest r r' (by omega) (by omega) hlt hh
  case tailIs =>
    intro r hr hwin
    by_cases hrq : r = q
    · subst hrq
      rw [if_pos rfl, hk]
      exact headIs k
    · rw [if_neg (by omega)]
      exact tailIs r (by omega) (by omega)
  case tailKept =>
    intro j hj hle
    rw [if_neg (by omega)]
    exact tailKept j hj (by omega)

theorem insertRange_tableInvariant {tail0 : Table} {n q : Nat} {s t : State} (hw : DataWf s) (hN : s.inN ≤ 2139095024)
    (hi : TableInvariant tail0 (s.setP q)) (h : insertRange n q s = .ok t) : TableInvariant tail0 (t.setP (q + n)) := by
  suffices DataWf t ∧ t.inN ≤ 2139095024 ∧ TableInvariant tail0 (t.setP (q + n)) by
    obtain ⟨-, -, hit⟩ := this
    exact hit
  refine insertRange_keeps (P := fun q u => DataWf u ∧ u.inN ≤ 2139095024 ∧ TableInvariant tail0 (u.setP q)) ?_
    ⟨hw, hN, hi⟩ h
  rintro q u v ⟨huw, huN, hui⟩ hv
  have hin : v.inLen = u.inLen := insertOp_frame hv .inLen (by decide)
  exact ⟨insertOp_dataWf huw hv, by rw [State.inN, hin]; exact huN, insertOp_tableInvariant huw huN hui hv⟩

end Sys2Proof.Proofs

/-! SUPPORT. What a DECIDE does as a whole (R162), and the invariants it keeps. -/

namespace Sys2Proof.Proofs

open Sys2Proof.Machine Sys2Proof.Safety

/-! ## Invariants depend on few parts -/

/-- The parts a step of a running command may change (R71). -/
def runParts : List Part := [.head, .tail, .enc, .mf, .dec, .status, .result, .outMem, .draws]

theorem compressOperands_of_frame {s t : State} (f : SameBut runParts s t) (h : CompressOperands s) :
    CompressOperands t := by
  have hl : t.level = s.level := f .level (by decide)
  have hi : t.inLen = s.inLen := f .inLen (by decide)
  have hc : t.outCap = s.outCap := f .outCap (by decide)
  unfold CompressOperands
  rw [hl, State.inN, State.capN, hi, hc]
  exact h

theorem decompressOperands_of_frame {s t : State} (f : SameBut runParts s t) (h : DecompressOperands s) :
    DecompressOperands t := by
  have hi : t.inLen = s.inLen := f .inLen (by decide)
  have hc : t.outCap = s.outCap := f .outCap (by decide)
  unfold DecompressOperands
  rw [State.inN, State.capN, hi, hc]
  exact h

theorem buffersReady_of_frame {s t : State} (f : SameBut runParts s t) (ha : t.outMem.addrs = s.outMem.addrs)
    (h : BuffersReady s) : BuffersReady t := by
  have hi : t.inLen = s.inLen := f .inLen (by decide)
  have hc : t.outCap = s.outCap := f .outCap (by decide)
  have hm : t.inMem = s.inMem := f .inMem (by decide)
  obtain ⟨hib, hob⟩ := f .bases (by decide)
  unfold BuffersReady
  rw [State.inN, State.capN, hi, hc, hm, hib, hob, Memory.covers_of_addrs ha]
  exact h

theorem dataWf_congr {s t : State} (h : DataWf s) (hi : t.inMem = s.inMem) (ha : t.outMem.addrs = s.outMem.addrs)
    (hh : t.head = s.head) (ht : t.tail = s.tail) : DataWf t :=
  ⟨by rw [hi]; exact h.inMem, Memory.wf_of_addrs ha h.outMem, by rw [hh]; exact h.head, by rw [ht]; exact h.tail⟩

/-! ## DECIDE taken apart -/

theorem searchOp_ok {s t : State} (h : searchOp s = .ok t) : s.pN < s.inN ∧ ∃ m, t = s.endSearch m := by
  unfold searchOp at h
  split at h
  · cases h
  all_goals
    next hf =>
      cases h
      obtain ⟨hp, m, rfl⟩ := findMatchOp_ok hf
      exact ⟨hp, _, rfl⟩

/-- The decision (R162): search, SUPPRESS and LAZY touch the Match Finder's registers only, and a match of length 4 with
135 or more pending literals does not survive (R163). -/
theorem decideOp_ok {s t : State} (h : decideOp s = .ok t) :
    s.pN < s.inN ∧ ∃ m k, ¬(m.bestLen.toNat = 4 ∧ 135 ≤ s.runN) ∧ commitOp ((s.withMf m).withDraws k) = .ok t := by
  obtain ⟨a, ha, h⟩ := phases_ok (decideOp_eq s ▸ h)
  obtain ⟨hp, m, rfl⟩ := searchOp_ok ha
  obtain ⟨b, hb, h⟩ := phases_ok h
  obtain ⟨m', k, rfl, -, hbest⟩ := lazyOp_ok hb
  refine ⟨hp, m', k, ?_, ?_⟩
  · rintro ⟨h4, hrun⟩
    rcases suppressOp_cases (s.endSearch m) with ⟨-, -, heq⟩ | ⟨hnot, heq⟩ <;> rw [heq] at hbest
    · rcases hbest with hbest | hbest <;> rw [hbest] at h4 <;> simp at h4
    · rcases hbest with hbest | hbest <;> rw [hbest] at h4
      · exact hnot ⟨h4, hrun⟩
      · simp at h4
  · rcases suppressOp_cases (s.endSearch m) with ⟨-, -, heq⟩ | ⟨-, heq⟩ <;> rw [heq] at h <;> exact h

theorem commitOp_ok {s t : State} (h : commitOp s = .ok t) :
    (4 ≤ s.bestN ∧ ∃ u, emitMatchOp s = .ok u ∧ acceptOp u = .ok t) ∨ literalOp s = .ok t := by
  rw [commitOp_eq] at h
  split at h
  · next hm => exact .inl ⟨by simpa [matchSurvives] using hm, phases_ok h⟩
  · exact .inr h

/-- The Encoder's registers between two decisions: `run <= p` (R21) and the output size bound (R173). -/
structure SizeBound (s : State) : Prop where
  run : s.runN ≤ s.pN
  out : s.encOp ≤ (s.pN - s.runN) + (s.pN - s.runN) / 16519

/-- R173: where a match survives SUPPRESS, its token is paid for by the bytes it covers and the growth of the bound. -/
theorem matchTokenLen_bound {x run best : Nat} (hrun : run < 4294967296) (hbest : best < 4294967296) (h4 : 4 ≤ best)
    (hs : ¬(best = 4 ∧ 135 ≤ run)) :
    x + x / 16519 + matchTokenLen run best ≤ (x + run + best) + (x + run + best) / 16519 := by
  obtain ⟨r1, r2, r3, r5⟩ := vlen_bounds (run - 7)
  obtain ⟨b1, -, -, b5⟩ := vlen_bounds (best - 4 - 15)
  unfold matchTokenLen optVlen
  split <;> split <;> omega

/-- A DECIDE inserts the `n` positions from `p` on and moves `p` behind them; before that it writes OUT and the Encoder's
and the Match Finder's registers. -/
structure Decides (n : Nat) (s u v t : State) : Prop where
  pos : 0 < n
  before : SameBut [.enc, .mf, .outMem, .draws] s u
  addrs : u.outMem.addrs = s.outMem.addrs
  inserts : insertRange n s.pN u = .ok v
  after : SameBut [.enc] v t
  p : t.enc.p = Word.ofNat (s.pN + n)
  bound : SizeBound s → t.pN = s.pN + n → SizeBound t

/-- The decision for a match (R165, R167). -/
theorem accept_decides {s t u : State} {m : MatchRegs} {k : Nat} (hp : s.pN < s.inN) (h4 : 4 ≤ m.bestLen.toNat)
    (hsup : ¬(m.bestLen.toNat = 4 ∧ 135 ≤ s.runN)) (hu : emitMatchOp ((s.withMf m).withDraws k) = .ok u)
    (ht : acceptOp u = .ok t) : ∃ n v, Decides n s u v t := by
  have hu := emitMatchOp_emits hu
  obtain ⟨v, hv, ht⟩ := phases_ok (acceptOp_eq u ▸ ht)
  have hbest : u.bestN = m.bestLen.toNat := congrArg (·.bestLen.toNat) (hu.frame .mf (by decide))
  have hup : u.pN = s.pN := hu.p
  rw [hbest, hup] at hv ht
  cases ht
  have hin : u.inLen = s.inLen := hu.frame .inLen (by decide)
  have henc : v.enc = u.enc := (insertRange_frame (by rw [State.inN, hin]; exact hp.le) hv).1 .enc (by decide)
  refine ⟨m.bestLen.toNat, v, by omega,
    ((sameBut_withMf_withDraws s m k).mono (by decide)).trans (hu.frame.mono (by decide)), hu.addrs, hv,
    (sameBut_withEnc v _).trans (sameBut_withEnc _ _), rfl, fun ⟨hrun, hout⟩ hpt => ⟨Nat.zero_le _, ?_⟩⟩
  have hop : v.encOp ≤ s.encOp + matchTokenLen s.runN m.bestLen.toNat := by
    rw [State.encOp, henc]
    exact hu.op
  have hlen := matchTokenLen_bound (x := s.pN - s.runN) (run := s.runN) s.enc.run.isLt m.bestLen.isLt h4 hsup
  rw [hpt, show ((v.setP (s.pN + m.bestLen.toNat)).setRun 0).runN = 0 from rfl,
    show ((v.setP (s.pN + m.bestLen.toNat)).setRun 0).encOp = v.encOp from rfl]
  rw [Nat.sub_add_cancel hrun] at hlen
  omega

/-- The decision for a literal (R168). -/
theorem literal_decides {s t : State} {m : MatchRegs} {k : Nat} (ht : literalOp ((s.withMf m).withDraws k) = .ok t) :
    ∃ v, Decides 1 s ((s.withMf m).withDraws k) v t := by
  obtain ⟨v, hv, ht⟩ := phases_ok (literalOp_eq _ ▸ ht)
  cases ht
  have henc : v.enc = s.enc := insertOp_frame hv .enc (by decide)
  refine ⟨v, by omega, (sameBut_withMf_withDraws s m k).mono (by decide), rfl, ?_,
    (sameBut_withEnc v _).trans (sameBut_withEnc _ _), rfl, fun ⟨hrun, hout⟩ hpt => ?_⟩
  · rw [insertRange_succ]
    exact congrArg (phases · _) hv
  · generalize htt : (v.setRun _).setP _ = t at hpt ⊢
    have hrunt : t.runN ≤ s.runN + 1 := by subst htt; exact ofNat_toNat_le (s.runN + 1)
    have hopt : t.encOp = s.encOp := by subst htt; exact congrArg (·.op.toNat) henc
    constructor <;> omega

theorem decideOp_decides {s t : State} (h : decideOp s = .ok t) : s.pN < s.inN ∧ ∃ n u v, Decides n s u v t := by
  obtain ⟨hp, m, k, hsup, hc⟩ := decideOp_ok h
  refine ⟨hp, ?_⟩
  rcases commitOp_ok hc with ⟨h4, u, hu, ht⟩ | ht
  · obtain ⟨n, v, hd⟩ := accept_decides hp h4 hsup hu ht
    exact ⟨n, u, v, hd⟩
  · obtain ⟨v, hd⟩ := literal_decides ht
    exact ⟨1, _, v, hd⟩

section
variable {n : Nat} {s u v t : State}

theorem Decides.inLen (h : Decides n s u v t) : u.inLen = s.inLen := h.before .inLen (by decide)

theorem Decides.range (h : Decides n s u v t) (hp : s.pN < s.inN) : SameBut [.head, .tail] u v ∧ s.pN + n ≤ s.inN := by
  have := insertRange_frame (s := u) (by rw [State.inN, h.inLen]; exact hp.le) h.inserts
  rwa [State.inN, h.inLen] at this

theorem Decides.pN_eq (h : Decides n s u v t) (hp : s.pN < s.inN) : t.pN = s.pN + n := by
  rw [State.pN, h.p, ofNat_toNat_of_lt ((h.range hp).2.trans_lt (inN_lt s))]

theorem Decides.frame (h : Decides n s u v t) (hp : s.pN < s.inN) :
    SameBut [.head, .tail, .enc, .mf, .outMem, .draws] s t :=
  ((h.before.mono (by decide)).trans ((h.range hp).1.mono (by decide))).trans (h.after.mono (by decide))

theorem Decides.addrs_eq (h : Decides n s u v t) (hp : s.pN < s.inN) : t.outMem.addrs = s.outMem.addrs := by
  have hv : v.outMem = u.outMem := (h.range hp).1 .outMem (by decide)
  have ht : t.outMem = v.outMem := h.after .outMem (by decide)
  rw [ht, hv, h.addrs]

theorem Decides.dataWf_mid (h : Decides n s u v t) (hw : DataWf s) : DataWf u :=
  dataWf_congr hw (h.before .inMem (by decide)) h.addrs (h.before .head (by decide)) (h.before .tail (by decide))

theorem Decides.dataWf (h : Decides n s u v t) (hw : DataWf s) : DataWf t :=
  dataWf_congr (insertRange_dataWf (h.dataWf_mid hw) h.inserts) (h.after .inMem (by decide))
    (congrArg Memory.addrs (h.after .outMem (by decide))) (h.after .head (by decide)) (h.after .tail (by decide))

theorem Decides.tablesBelow (h : Decides n s u v t) (hp : s.pN < s.inN) (hw : DataWf s) (hN : s.inN ≤ 2139095024)
    (hb : TablesBelow s) : TablesBelow t := by
  have hu : TablesBelow (u.setP s.pN) := tablesBelow_congr hb (h.before .head (by decide)) (h.before .tail (by decide))
    (setP_pN (by rw [State.inN, h.inLen]; exact hp.le))
  have hv := insertRange_tablesBelow (h.dataWf_mid hw) (by rw [State.inN, h.inLen]; exact hN) hu h.inserts
  exact tablesBelow_congr hv (h.after .head (by decide)) (h.after .tail (by decide)) (congrArg BitVec.toNat h.p)

/-- R32: a DECIDE keeps the table invariant. -/
theorem Decides.tableInvariant (h : Decides n s u v t) (hp : s.pN < s.inN) (hw : DataWf s) (hN : s.inN ≤ 2139095024)
    {tail0 : Table} (hi : TableInvariant tail0 s) : TableInvariant tail0 t := by
  have hu : TableInvariant tail0 (u.setP s.pN) := tableInvariant_congr hi (h.before .head (by decide)) (h.before .tail (by decide))
    (setP_pN (by rw [State.inN, h.inLen]; exact hp.le)) (h.before .inMem (by decide))
  have hv := insertRange_tableInvariant (h.dataWf_mid hw) (by rw [State.inN, h.inLen]; exact hN) hu h.inserts
  exact tableInvariant_congr hv (h.after .head (by decide)) (h.after .tail (by decide)) (congrArg BitVec.toNat h.p)
    (h.after .inMem (by decide))

/-- R21, R173: a DECIDE keeps the Encoder's invariant. -/
theorem Decides.encoderInv (h : Decides n s u v t) (hp : s.pN < s.inN) (hw : DataWf s) (hi : EncoderInv s) :
    EncoderInv t := by
  have hf : SameBut runParts s t := (h.frame hp).mono (by decide)
  have hpt := h.pN_eq hp
  obtain ⟨hrun, hout⟩ := h.bound ⟨hi.run, hi.out⟩ hpt
  refine ⟨compressOperands_of_frame hf hi.operands, buffersReady_of_frame hf (h.addrs_eq hp) hi.buffers,
    h.tablesBelow hp hw hi.operands.inLen_le hi.tables, ?_, hrun, hout⟩
  rw [hpt, State.inN, hf .inLen (by decide)]
  exact (h.range hp).2

end

end Sys2Proof.Proofs

/-! SUPPORT. The steps of the core (R45, R160, R200): what each of them can do, when a command ends, and what the run of a command
reaches. -/

namespace Sys2Proof.Proofs

open Sys2Proof.Machine Sys2Proof.Safety

/-! ## One step of the core -/

theorem step_busy {s : State} (h : s.status = .busy) : step s = busyStep s := by
  unfold step
  rw [h]

theorem step_busy_compress {s : State} (h : s.status = .busy) (hc : s.cmd = 0) : step s = encoderStep s := by
  rw [step_busy h, busyStep, if_pos hc]

theorem step_busy_decompress {s : State} (h : s.status = .busy) (hc : s.cmd = 1) : step s = decoderStep s := by
  rw [step_busy h, busyStep, if_neg (by rw [hc]; decide)]

theorem step_wait {s : State} (h : s.status ≠ .busy) (hh : s.host = []) : step s = .next s := by
  unfold step
  cases hs : s.status <;> simp_all

theorem step_start {s : State} {rest : List HostMove} (h : s.status ≠ .busy) (hh : s.host = .start :: rest) :
    step s = exec (decodeCmd s.cmd) (s.withHost rest) := by
  unfold step
  cases hs : s.status <;> simp_all

theorem step_move {s : State} {m : HostMove} {rest : List HostMove} (h : s.status ≠ .busy) (hm : m ≠ .start)
    (hh : s.host = m :: rest) : step s = hostMove m (s.withHost rest) := by
  unfold step
  cases hs : s.status <;> simp_all

/-- A host move but START starts nothing and keeps the canonical forms. -/
theorem hostMove_quiet {m : HostMove} {s t : State} (hm : m ≠ .startStepped) (h : hostMove m s = .next t) :
    t.status = s.status ∧ (DataWf s → DataWf t) := by
  cases m
  case startStepped => exact absurd rfl hm
  case lendIn base bytes => cases h; exact ⟨rfl, fun hw => ⟨Memory.ofBytes_wf bytes 0, hw.outMem, hw.head, hw.tail⟩⟩
  case lendOut base bytes => cases h; exact ⟨rfl, fun hw => ⟨hw.inMem, Memory.ofBytes_wf bytes 0, hw.head, hw.tail⟩⟩
  case storeIn addr bytes =>
    simp only [hostMove, hostStore] at h
    split at h
    · cases h
    · next m hm => cases h; exact ⟨rfl, fun hw => ⟨Memory.setBytes?_wf hm hw.inMem, hw.outMem, hw.head, hw.tail⟩⟩
  case storeOut addr bytes =>
    simp only [hostMove, hostStore] at h
    split at h
    · cases h
    · next m hm => cases h; exact ⟨rfl, fun hw => ⟨hw.inMem, Memory.setBytes?_wf hm hw.outMem, hw.head, hw.tail⟩⟩
  all_goals cases h; exact ⟨rfl, fun hw => ⟨hw.inMem, hw.outMem, hw.head, hw.tail⟩⟩

/-- What a core that is not busy can do (R45): wait, run a whole command, launch one, or take another move of the host. -/
theorem step_notBusy {s t : State} (hb : s.status ≠ .busy) (h : step s = .next t) :
    (s.host = [] ∧ t = s) ∨
    (∃ rest, s.host = .start :: rest ∧ exec (decodeCmd s.cmd) (s.withHost rest) = .next t) ∨
    (∃ rest, s.host = .startStepped :: rest ∧ launch (s.withHost rest) = .next t) ∨
    (∃ m rest, s.host = m :: rest ∧ m ≠ .start ∧ m ≠ .startStepped ∧ hostMove m (s.withHost rest) = .next t) := by
  cases hh : s.host with
  | nil =>
    rw [step_wait hb hh] at h
    cases h
    exact .inl ⟨rfl, rfl⟩
  | cons m rest =>
    by_cases hm : m = .start
    · subst hm
      rw [step_start hb hh] at h
      exact .inr (.inl ⟨rest, rfl, h⟩)
    · rw [step_move hb hm hh] at h
      by_cases hm' : m = .startStepped
      · subst hm'
        exact .inr (.inr (.inl ⟨rest, rfl, h⟩))
      · exact .inr (.inr (.inr ⟨m, rest, rfl, hm, hm', h⟩))

/-! ## A step of a running COMPRESS (R160) -/

theorem emitFinalOp_emits {s t : State} (h : emitFinalOp s = .ok t) : ∃ n, Emits n s t := by
  unfold emitFinalOp at h
  split at h
  · cases h; exact ⟨0, emits_refl s⟩
  · split at h
    · cases h
    · exact ⟨_, emitHead_emits h⟩

/-- A step of a running COMPRESS is a DECIDE, or the final token and the end. -/
theorem encoderStep_next {s t : State} (h : encoderStep s = .next t) :
    (s.pN < s.inN ∧ ∃ n u v, Decides n s u v t) ∨ (∃ n u, Emits n s u ∧ t = finishCompress u) := by
  unfold encoderStep at h
  split at h
  · exact .inl (decideOp_decides (conclude_next_of_neverRaises (decideOp_neverRaises s) h))
  · obtain ⟨u, hu, ht⟩ := andThen_next h
    obtain ⟨n, hn⟩ := emitFinalOp_emits (conclude_next_of_neverRaises (emitFinalOp_neverRaises s) hu)
    cases ht
    exact .inr ⟨n, u, hn, rfl⟩

theorem encoderStep_frame {s t : State} (h : encoderStep s = .next t) :
    SameBut [.head, .tail, .enc, .mf, .status, .result, .outMem, .draws] s t := by
  rcases encoderStep_next h with ⟨hp, n, u, v, hd⟩ | ⟨n, u, hu, rfl⟩
  · exact (hd.frame hp).mono (by decide)
  · exact (hu.frame.mono (by decide)).trans ((sameBut_finishCompress u).mono (by decide))

theorem encoderStep_cmd {s t : State} (h : encoderStep s = .next t) : t.cmd = s.cmd :=
  encoderStep_frame h .cmd (by decide)

theorem encoderStep_dataWf {s t : State} (hw : DataWf s) (h : encoderStep s = .next t) : DataWf t := by
  rcases encoderStep_next h with ⟨hp, n, u, v, hd⟩ | ⟨n, u, hu, rfl⟩
  · exact hd.dataWf hw
  · have hf : SameBut [.enc, .mf, .status, .result, .outMem, .draws] s (finishCompress u) :=
      (hu.frame.mono (by decide)).trans (sameBut_finishCompress u)
    refine dataWf_congr hw (hf .inMem (by decide)) ?_ (hf .head (by decide)) (hf .tail (by decide))
    rw [finishCompress_outMem, Memory.addrs_scramble, hu.addrs]

/-- A step of a running COMPRESS ends it, or moves `p` on inside the input and leaves it running (R171). -/
theorem encoderStep_progress {s t : State} (h : encoderStep s = .next t) :
    t.status = .done ∨ (t.status = s.status ∧ s.pN < t.pN ∧ t.pN ≤ t.inN) := by
  rcases encoderStep_next h with ⟨hp, n, u, v, hd⟩ | ⟨n, u, hu, rfl⟩
  · have hin : t.inLen = s.inLen := hd.frame hp .inLen (by decide)
    refine .inr ⟨hd.frame hp .status (by decide), ?_, ?_⟩ <;> rw [hd.pN_eq hp]
    · have := hd.pos
      omega
    · rw [State.inN, hin]
      exact (hd.range hp).2
  · exact .inl (by simp)

theorem encoderStep_encoderInv {s t : State} (hw : DataWf s) (hi : EncoderInv s) (h : encoderStep s = .next t)
    (ht : t.status = .busy) : EncoderInv t := by
  rcases encoderStep_next h with ⟨hp, n, u, v, hd⟩ | ⟨n, u, -, rfl⟩
  · exact hd.encoderInv hp hw hi
  · exact nomatch (finishCompress_status u).symm.trans ht

/-! ## A step of a running DECOMPRESS (R201) -/

/-- A step of a running DECOMPRESS takes the error exit, or ends the command at the stream's end, or runs one token. -/
theorem decoderStep_next {s t : State} (h : decoderStep s = .next t) :
    t = errorExit s ∨ (s.ipN = s.inN ∧ t = finishDecompress s) ∨
      (s.ipN < s.inN ∧ ∃ n k, 0 < n ∧ Advance n (1 + k) s t) := by
  unfold decoderStep at h
  split at h
  · next hip =>
    split at h
    · cases h
    · split at h
      · cases h; exact .inl rfl
      · next i rest hd =>
        obtain ⟨hi, hn⟩ := decode_writingToken hd
        rw [execToken_eq_exec hi, exec_token hi] at h
        rcases conclude_next h with h | ⟨c, -, rfl⟩
        · obtain ⟨k, hk⟩ := tokenBody_advance h
          have hk := (takeTag_advance (tokenTag i) hip).trans hk
          rw [Nat.zero_add] at hk
          exact .inr (.inr ⟨hip, _, k, hn, hk⟩)
        · exact .inl rfl
  · unfold loopExit at h
    split at h
    · next heq => cases h; exact .inr (.inl ⟨heq, rfl⟩)
    · cases h; exact .inl rfl

theorem decoderStep_frame {s t : State} (h : decoderStep s = .next t) :
    SameBut [.dec, .status, .result, .outMem, .draws] s t := by
  rcases decoderStep_next h with rfl | ⟨-, rfl⟩ | ⟨-, n, k, -, ha⟩
  · exact sameBut_errorExit s
  · exact sameBut_finishDecompress s
  · exact ha.frame.mono (by decide)

theorem decoderStep_cmd {s t : State} (h : decoderStep s = .next t) : t.cmd = s.cmd :=
  decoderStep_frame h .cmd (by decide)

theorem decoderStep_addrs {s t : State} (h : decoderStep s = .next t) : t.outMem.addrs = s.outMem.addrs := by
  rcases decoderStep_next h with rfl | ⟨-, rfl⟩ | ⟨-, n, k, -, ha⟩
  · rw [errorExit_outMem, Memory.addrs_scramble]
  · rw [finishDecompress_outMem, Memory.addrs_scramble]
  · exact ha.addrs

theorem decoderStep_dataWf {s t : State} (hw : DataWf s) (h : decoderStep s = .next t) : DataWf t :=
  have hf := decoderStep_frame h
  dataWf_congr hw (hf .inMem (by decide)) (decoderStep_addrs h) (hf .head (by decide)) (hf .tail (by decide))

/-- R214: a token of a legal DECOMPRESS moves both cursors forward and keeps them in range. -/
theorem Advance.cursors {n k : Nat} {s t : State} (h : Advance n (1 + k) s t) (hn : 0 < n) (hi : DecoderInv s) :
    s.ipN < t.ipN ∧ t.ipN ≤ s.inN ∧ s.decOp < t.decOp ∧ t.decOp ≤ s.capN := by
  obtain ⟨hip, hin⟩ := h.ip hi.operands.1 hi.ip
  have hop := h.op
  exact ⟨by omega, hin, by omega, h.opLe hi.op⟩

theorem Advance.decoderInv {n k : Nat} {s t : State} (h : Advance n k s t) (hi : DecoderInv s) : DecoderInv t where
  operands := decompressOperands_of_frame (h.frame.mono (by decide)) hi.operands
  buffers := buffersReady_of_frame (h.frame.mono (by decide)) h.addrs hi.buffers
  ip := by rw [State.inN, h.inLen]; exact (h.ip hi.operands.1 hi.ip).2
  op := by rw [State.capN, h.outCap]; exact h.opLe hi.op

theorem decoderStep_decoderInv {s t : State} (hi : DecoderInv s) (h : decoderStep s = .next t)
    (ht : t.status = .busy) : DecoderInv t := by
  rcases decoderStep_next h with rfl | ⟨-, rfl⟩ | ⟨-, n, k, -, ha⟩
  · exact nomatch (errorExit_status s).symm.trans ht
  · exact nomatch (finishDecompress_status s).symm.trans ht
  · exact ha.decoderInv hi

theorem streamRest_isSome {s : State} (h : s.inMem.covers (s.inN + 16) = true) : ∃ bs, streamRest s = some bs := by
  rw [Memory.covers_iff] at h
  exact Option.isSome_iff_exists.1 ((Memory.slice_isSome_iff _ _ _).2 fun c _ hc => h c (by omega))

/-- R213, R244: a step of a legal DECOMPRESS answers a next state. -/
theorem decoderStep_completes {s : State} (hi : DecoderInv s) : ∃ t, decoderStep s = .next t := by
  obtain ⟨hcin, hcout, -⟩ := hi.buffers
  unfold decoderStep
  split
  · obtain ⟨bs, hbs⟩ := streamRest_isSome hcin
    rw [hbs]
    dsimp only
    split
    · exact ⟨_, rfl⟩
    · next i rest hd =>
      obtain ⟨htok, -⟩ := decode_writingToken hd
      rw [execToken_eq_exec htok, exec_token htok]
      exact (tokenBody_completes i hcout).conclude s
  · unfold loopExit
    split
    · exact ⟨_, rfl⟩
    · exact ⟨_, rfl⟩

/-- A busy step leaves the core busy or ends in DONE (R45). -/
theorem busyStep_status {s t : State} (hb : s.status = .busy) (h : step s = .next t) :
    t.status = .busy ∨ t.status = .done := by
  rcases BitVec.eq_zero_or_eq_one s.cmd with hc | hc
  · rw [step_busy_compress hb hc] at h
    rcases encoderStep_progress h with hd | ⟨hst, -⟩
    · exact .inr hd
    · exact .inl (hst.trans hb)
  · rw [step_busy_decompress hb hc] at h
    rcases decoderStep_next h with rfl | ⟨-, rfl⟩ | ⟨-, n, k, -, ha⟩
    · exact .inr (errorExit_status s)
    · exact .inr (finishDecompress_status s)
    · have hst : t.status = s.status := ha.frame .status (by decide)
      exact .inl (hst.trans hb)

/-! ## The run of a busy core -/

/-- Where every step of a busy core answers, its run does. -/
theorem runBusy_completes {f : State → Result} {P : State → Prop}
    (hf : ∀ s, s.status = .busy → P s → ∃ t, f s = .next t ∧ P t) :
    ∀ (n : Nat) {s : State}, P s → ∃ t, runBusy f n s = .next t
  | 0, s, _ => ⟨s, rfl⟩
  | n + 1, s, hs => by
    unfold runBusy
    split
    · next hb =>
      obtain ⟨u, hu, hpu⟩ := hf s hb hs
      rw [hu]
      exact runBusy_completes hf n hpu
    · exact ⟨s, rfl⟩
    · exact ⟨s, rfl⟩

/-- Where every step of a busy core ends its command or comes nearer to the end, a run long enough ends in DONE. -/
theorem runBusy_done {f : State → Result} {P : State → Prop} {togo : State → Nat}
    (hf : ∀ s t, s.status = .busy → P s → f s = .next t →
      t.status = .done ∨ (t.status = .busy ∧ P t ∧ togo t < togo s)) :
    ∀ {n : Nat} {s t : State}, s.status = .busy → P s → togo s < n → runBusy f n s = .next t → t.status = .done
  | 0, s, t, _, _, hn, _ => absurd hn (Nat.not_lt_zero _)
  | n + 1, s, t, hb, hs, hn, h => by
    unfold runBusy at h
    rw [hb] at h
    obtain ⟨u, hu, h⟩ := andThen_next h
    rcases hf s u hb hs hu with hdone | ⟨hub, hpu, hlt⟩
    · rw [runBusy_idle (by rw [hdone]; decide)] at h
      cases h
      exact hdone
    · exact runBusy_done hf hub hpu (by omega) h

/-- A run of the busy core is a run of the machine's own steps. -/
theorem core_run_of_runBusy {f : State → Result} {P : State → Prop} (hstep : ∀ s, s.status = .busy → P s → step s = f s)
    (hf : ∀ s t, P s → f s = .next t → P t) :
    ∀ {n : Nat} {s t : State}, P s → runBusy f n s = .next t → ∃ k, Host.Core.run core k s = .next t
  | 0, s, t, _, h => ⟨0, h⟩
  | n + 1, s, t, hs, h => by
    unfold runBusy at h
    split at h
    · next hb =>
      obtain ⟨u, hu, h⟩ := andThen_next h
      obtain ⟨k, hk⟩ := core_run_of_runBusy hstep hf (hf s u hs hu) h
      refine ⟨k + 1, ?_⟩
      have : core.step s = .next u := (hstep s hb hs).trans hu
      simp only [Host.Core.run, this]
      exact hk
    · exact ⟨0, h⟩
    · exact ⟨0, h⟩

/-! ## Launches (R45, R247) -/

theorem bufferRefusal_none {s : State} : bufferRefusal s = none ↔ BuffersReady s := by
  unfold bufferRefusal BuffersReady disjointBuffers
  cases s.inMem.covers (s.inN + 16) <;> cases s.outMem.covers (s.capN + 16) <;> simp
  omega

/-- A launch of COMPRESS is accepted exactly where its premises hold. -/
theorem compressRefusal_none {s : State} : compressRefusal s = none ↔ CompressReady s := by
  unfold compressRefusal CompressReady CompressOperands
  rw [← bufferRefusal_none]
  simp only [levelLegal, Bool.and_eq_false_iff, decide_eq_false_iff_not]
  constructor
  · intro h
    split_ifs at h
    exact ⟨‹_›, ⟨by omega, by omega, by omega, by omega, by omega⟩, h⟩
  · rintro ⟨hs, ⟨h1, h9, hin, hcap, hsize⟩, hb⟩
    rw [if_neg hs, if_neg (by omega), if_neg (by omega), if_neg (by omega), if_neg (by omega), hb]

/-- A launch of DECOMPRESS is accepted exactly where its premises hold. -/
theorem decompressRefusal_none {s : State} : decompressRefusal s = none ↔ DecompressReady s := by
  unfold decompressRefusal DecompressReady DecompressOperands
  rw [← bufferRefusal_none]
  constructor
  · intro h
    split_ifs at h
    exact ⟨‹_›, ⟨by omega, by omega⟩, h⟩
  · rintro ⟨hs, ⟨hin, hcap⟩, hb⟩
    rw [if_neg hs, if_neg (by omega), if_neg (by omega), hb]

theorem launchCompress_cmd (s : State) : (launchCompress s).cmd = s.cmd := sameBut_launchCompress s .cmd (by decide)
theorem launchDecompress_cmd (s : State) : (launchDecompress s).cmd = s.cmd :=
  sameBut_launchDecompress s .cmd (by decide)
theorem launchDecompress_outMem (s : State) : (launchDecompress s).outMem = s.outMem :=
  sameBut_launchDecompress s .outMem (by decide)

/-- The launch establishes the Encoder's invariant (R161): nothing is inserted, nothing is written. -/
theorem launchCompress_encoderInv {s : State} (h : CompressReady s) : EncoderInv (launchCompress s) := by
  obtain ⟨-, hops, hbuf⟩ := h
  have hf : SameBut runParts s (launchCompress s) := (sameBut_launchCompress s).mono (by decide)
  exact {
    operands := compressOperands_of_frame hf hops
    buffers := buffersReady_of_frame hf rfl hbuf
    tables := ⟨fun _ => (by decide : Config.NIL.toInt < 0), fun _ hq => absurd hq (Nat.not_lt_zero _)⟩
    pos := Nat.zero_le _
    run := Nat.zero_le _
    out := Nat.zero_le _ }

/-- The launch establishes the Decoder's invariant (R201). -/
theorem launchDecompress_decoderInv {s : State} (h : DecompressReady s) : DecoderInv (launchDecompress s) := by
  obtain ⟨-, hops, hbuf⟩ := h
  have hf : SameBut runParts s (launchDecompress s) := (sameBut_launchDecompress s).mono (by decide)
  exact {
    operands := decompressOperands_of_frame hf hops
    buffers := buffersReady_of_frame hf (congrArg Memory.addrs (launchDecompress_outMem s)) hbuf
    ip := Nat.zero_le _
    op := Nat.zero_le _ }

theorem launchCompress_dataWf {s : State} (h : DataWf s) : DataWf (launchCompress s) :=
  ⟨h.inMem, h.outMem, rfl, h.tail⟩

theorem launchDecompress_dataWf {s : State} (h : DataWf s) : DataWf (launchDecompress s) :=
  have hf := sameBut_launchDecompress s
  dataWf_congr h (hf .inMem (by decide)) (congrArg Memory.addrs (launchDecompress_outMem s)) (hf .head (by decide))
    (hf .tail (by decide))

theorem launch_of_compressReady {s : State} (hc : s.cmd = 0) (h : CompressReady s) :
    launch s = .next (launchCompress s) := by
  simp only [launch, if_pos hc, compressRefusal_none.2 h]

theorem launch_of_decompressReady {s : State} (hc : s.cmd = 1) (h : DecompressReady s) :
    launch s = .next (launchDecompress s) := by
  simp only [launch, hc, decompressRefusal_none.2 h, BitVec.reduceEq, if_false]

theorem launch_next {s t : State} (h : launch s = .next t) :
    (s.cmd = 0 ∧ CompressReady s ∧ t = launchCompress s) ∨ (s.cmd = 1 ∧ DecompressReady s ∧ t = launchDecompress s) := by
  unfold launch at h
  split at h
  · next hc =>
    split at h
    · cases h
    · next hr => cases h; exact .inl ⟨hc, compressRefusal_none.1 hr, rfl⟩
  · next hc =>
    split at h
    · cases h
    · next hr =>
      cases h
      exact .inr ⟨(BitVec.eq_zero_or_eq_one s.cmd).resolve_left hc, decompressRefusal_none.1 hr, rfl⟩

/-! ## Whole commands -/

theorem execCompress_next {s t : State} (h : exec .compress s = .next t) :
    CompressReady s ∧ runBusy encoderStep (s.inN + 1) (launchCompress s) = .next t := by
  simp only [exec, execCompress] at h
  split at h
  · cases h
  · next hr => exact ⟨compressRefusal_none.1 hr, h⟩

theorem execDecompress_next {s t : State} (h : exec .decompress s = .next t) :
    DecompressReady s ∧ runBusy decoderStep (s.inN + 1) (launchDecompress s) = .next t := by
  simp only [exec, execDecompress] at h
  split at h
  · cases h
  · next hr => exact ⟨decompressRefusal_none.1 hr, h⟩

theorem exec_decompress_eq {s : State} (h : DecompressReady s) :
    exec .decompress s = runBusy decoderStep (s.inN + 1) (launchDecompress s) := by
  simp only [exec, execDecompress, decompressRefusal_none.2 h]

/-- A whole COMPRESS that answers a state has ended (R171): every step brings `p` nearer to `in_len`. -/
theorem execCompress_done {s t : State} (h : exec .compress s = .next t) : t.status = .done := by
  obtain ⟨hr, h⟩ := execCompress_next h
  refine runBusy_done (s := launchCompress s) (P := fun u => u.inN = s.inN ∧ u.pN ≤ s.inN) (togo := fun u => s.inN - u.pN) ?_ rfl
    ⟨rfl, Nat.zero_le _⟩ (Nat.lt_succ_of_le (Nat.sub_le _ _)) h
  rintro u v hu ⟨huin, hup⟩ hv
  have hin : v.inN = s.inN := (congrArg BitVec.toNat (encoderStep_frame hv .inLen (by decide))).trans huin
  rcases encoderStep_progress hv with hd | ⟨hst, hlt, hle⟩
  · exact .inl hd
  · exact .inr ⟨hst.trans hu, ⟨hin, by omega⟩, by omega⟩

/-- A whole DECOMPRESS that answers a state has ended (R213): every step brings `ip` nearer to `in_len`. -/
theorem execDecompress_done {s t : State} (h : exec .decompress s = .next t) : t.status = .done := by
  obtain ⟨hr, h⟩ := execDecompress_next h
  refine runBusy_done (s := launchDecompress s) (P := fun u => u.inN = s.inN ∧ DecoderInv u) (togo := fun u => s.inN - u.ipN) ?_ rfl
    ⟨congrArg BitVec.toNat (sameBut_launchDecompress s .inLen (by decide)), launchDecompress_decoderInv hr⟩
    (Nat.lt_succ_of_le (Nat.sub_le _ _)) h
  rintro u v hu ⟨huin, hui⟩ hv
  have hin : v.inN = s.inN := (congrArg BitVec.toNat (decoderStep_frame hv .inLen (by decide))).trans huin
  rcases decoderStep_next hv with rfl | ⟨-, rfl⟩ | ⟨hip, n, k, hn, ha⟩
  · exact .inl (by simp)
  · exact .inl (by simp)
  · have hst : v.status = u.status := ha.frame .status (by decide)
    obtain ⟨hlt, hle, -⟩ := ha.cursors hn hui
    exact .inr ⟨hst.trans hu, ⟨hin, ha.decoderInv hui⟩, by omega⟩

theorem decodeCmd_done {s t : State} {c : BitVec 1} (h : exec (decodeCmd c) s = .next t) : t.status = .done := by
  unfold decodeCmd at h
  split at h
  · exact execCompress_done h
  · exact execDecompress_done h

theorem decodeCmd_dataWf {s t : State} {c : BitVec 1} (hw : DataWf s) (h : exec (decodeCmd c) s = .next t) :
    DataWf t := by
  unfold decodeCmd at h
  split at h
  · exact runBusy_keeps (fun _ _ _ => encoderStep_dataWf) (launchCompress_dataWf hw) (execCompress_next h).2
  · exact runBusy_keeps (fun _ _ _ => decoderStep_dataWf) (launchDecompress_dataWf hw) (execDecompress_next h).2

end Sys2Proof.Proofs

/-! SUPPORT. The statements about the state, its invariants and its steps, settled. -/

namespace Sys2Proof.Proofs

open Sys2Proof.Machine Sys2Proof.Safety

/-! ## Invariants -/

theorem inv_of_notBusy {s : State} (hw : DataWf s) (h : s.status ≠ .busy) : Inv s :=
  ⟨hw, fun hb => absurd hb h, fun hb => absurd hb h⟩

theorem launch_inv {s t : State} (hw : DataWf s) (h : launch s = .next t) : Inv t := by
  rcases launch_next h with ⟨hc, hr, rfl⟩ | ⟨hc, hr, rfl⟩
  · have hct : (launchCompress s).cmd = 0 := (launchCompress_cmd s).trans hc
    exact ⟨launchCompress_dataWf hw, fun _ _ => launchCompress_encoderInv hr, fun _ h1 => (nomatch hct.symm.trans h1)⟩
  · have hct : (launchDecompress s).cmd = 1 := (launchDecompress_cmd s).trans hc
    exact ⟨launchDecompress_dataWf hw, fun _ h0 => (nomatch hct.symm.trans h0), fun _ _ => launchDecompress_decoderInv hr⟩

theorem busyStep_inv {s t : State} (hi : Inv s) (hb : s.status = .busy) (h : step s = .next t) : Inv t := by
  rcases BitVec.eq_zero_or_eq_one s.cmd with hc | hc
  · rw [step_busy_compress hb hc] at h
    have hct : t.cmd = 0 := (encoderStep_cmd h).trans hc
    exact ⟨encoderStep_dataWf hi.data h, fun ht _ => encoderStep_encoderInv hi.data (hi.encoder hb hc) h ht,
      fun _ h1 => (nomatch hct.symm.trans h1)⟩
  · rw [step_busy_decompress hb hc] at h
    have hct : t.cmd = 1 := (decoderStep_cmd h).trans hc
    exact ⟨decoderStep_dataWf hi.data h, fun _ h0 => (nomatch hct.symm.trans h0),
      fun ht _ => decoderStep_decoderInv (hi.decoder hb hc) h ht⟩

theorem dataWf_withHost {s : State} (hw : DataWf s) (rest : List HostMove) : DataWf (s.withHost rest) :=
  ⟨hw.inMem, hw.outMem, hw.head, hw.tail⟩

/-- Settles O10: the busy steps keep the invariant of their command, a launch establishes it, and every other step leaves the
core not busy with its memories and tables in canonical form. -/
theorem stepKeepsInv : Obligations.StepKeepsInv := by
  intro s t hi h
  by_cases hb : s.status = .busy
  · exact busyStep_inv hi hb h
  · rcases step_notBusy hb h with ⟨-, rfl⟩ | ⟨rest, -, h⟩ | ⟨rest, -, h⟩ | ⟨m, rest, -, -, hm, h⟩
    · exact hi
    · exact inv_of_notBusy (decodeCmd_dataWf (dataWf_withHost hi.data rest) h) (by rw [decodeCmd_done h]; decide)
    · exact launch_inv (dataWf_withHost hi.data rest) h
    · obtain ⟨hst, hw⟩ := hostMove_quiet hm h
      exact inv_of_notBusy (hw (dataWf_withHost hi.data rest)) (by rw [hst]; exact hb)

/-- Settles O9: nothing is lent and nothing is inserted at reset. -/
theorem resetIsIdle : Obligations.ResetIsIdle := ⟨rfl, inv_of_notBusy ⟨rfl, rfl, rfl, rfl⟩ (by decide)⟩

/-- Settles O18: nothing is inserted at the start; a DECIDE is a range of INSERTs, each of which carries the invariant from one
position to the next. -/
theorem decideKeepsTableInvariant : Obligations.DecideKeepsTableInvariant := by
  constructor
  · intro s t h
    cases h
    have none_inserted : ∀ {q : Nat}, ¬q < (startCompressOp s).pN := Nat.not_lt_zero _
    exact ⟨fun _ _ hq => absurd hq none_inserted, fun _ => .inl rfl, fun _ _ hq => absurd hq none_inserted,
      fun _ hq => absurd hq none_inserted, fun _ _ _ => rfl⟩
  · intro tail0 s t hw ho hi h
    obtain ⟨hp, n, u, v, hd⟩ := decideOp_decides (conclude_next_of_neverRaises (decideOp_neverRaises s) h)
    exact hd.tableInvariant hp hw ho.inLen_le hi

/-! ## Whole commands -/

/-- Settles O15: the launch answers the state the whole command starts its run in, and the run is made of the machine's own
steps, since no step of a command changes `CMD`. -/
theorem steppedCommandIsTheCommand : Obligations.SteppedCommandIsTheCommand := by
  intro s t rest hb hh h
  suffices ∃ u n, launch (s.withHost rest) = .next u ∧ Host.Core.run core n u = .next t by
    obtain ⟨u, n, hu, hn⟩ := this
    have hstep : core.step s = .next u := (step_move hb (by decide) hh).trans hu
    exact ⟨n, by simp only [Host.Core.run, hstep]; exact hn⟩
  rcases BitVec.eq_zero_or_eq_one s.cmd with hc | hc
  · rw [hc] at h
    obtain ⟨hr, h⟩ := execCompress_next h
    obtain ⟨n, hn⟩ := core_run_of_runBusy (s := launchCompress (s.withHost rest)) (P := fun u => u.cmd = 0) (fun _ => step_busy_compress)
      (fun u v hu hv => (encoderStep_cmd hv).trans hu) ((launchCompress_cmd _).trans hc) h
    exact ⟨_, n, launch_of_compressReady hc hr, hn⟩
  · rw [hc] at h
    obtain ⟨hr, h⟩ := execDecompress_next h
    obtain ⟨n, hn⟩ := core_run_of_runBusy (s := launchDecompress (s.withHost rest)) (P := fun u => u.cmd = 1) (fun _ => step_busy_decompress)
      (fun u v hu hv => (decoderStep_cmd hv).trans hu) ((launchDecompress_cmd _).trans hc) h
    exact ⟨_, n, launch_of_decompressReady hc hr, hn⟩

/-- What a DECOMPRESS begun in `s0` has reached in `s`: while it runs, the Decoder's invariant and OUT untouched behind the
clobber zone of `op` (R63); once it has ended, an error or a count inside the capacity (R244, R210). -/
structure DecompressRun (s0 s : State) : Prop where
  frame : SameBut [.dec, .status, .result, .outMem, .draws] s0 s
  running : s.status = .busy → DecoderInv s ∧ ∀ a, s.decOp + 15 ≤ a → s.outMem.byte? a = s0.outMem.byte? a
  ended : s.status = .done →
    (s.result = 0xFFFFFFFF#32 ∧ ∀ a, s0.capN + 15 ≤ a → s.outMem.byte? a = s0.outMem.byte? a) ∨
    (s.result.toNat ≤ s0.capN ∧ ∀ a, s.result.toNat + 15 ≤ a → s.outMem.byte? a = s0.outMem.byte? a)

theorem launchDecompress_run {s : State} (h : DecompressReady s) : DecompressRun s (launchDecompress s) where
  frame := (sameBut_launchDecompress s).mono (by decide)
  running _ := ⟨launchDecompress_decoderInv h, fun _ _ => by rw [launchDecompress_outMem]⟩
  ended h := nomatch h

theorem decoderStep_run {s0 s t : State} (hr : DecompressRun s0 s) (hb : s.status = .busy)
    (h : decoderStep s = .next t) : DecompressRun s0 t := by
  obtain ⟨hi, hkept⟩ := hr.running hb
  have hop := hi.op
  have hcap : s.capN = s0.capN := congrArg BitVec.toNat (hr.frame .outCap (by decide))
  have hf := hr.frame.trans (decoderStep_frame h)
  rcases decoderStep_next h with rfl | ⟨-, rfl⟩ | ⟨-, n, k, -, ha⟩
  · refine ⟨hf, fun hbt => (nomatch (errorExit_status s).symm.trans hbt), fun _ => .inl ⟨errorExit_result s, fun a ha => ?_⟩⟩
    rw [errorExit_outMem, Memory.byte?_scramble_outside (by omega), hkept a (by omega)]
  · refine ⟨hf, fun hbt => (nomatch (finishDecompress_status s).symm.trans hbt), fun _ => .inr ?_⟩
    rw [finishDecompress_result]
    refine ⟨hcap ▸ hop, fun a ha => ?_⟩
    rw [finishDecompress_outMem, Memory.byte?_scramble_outside (.inr ha), hkept a ha]
  · refine ⟨hf, fun _ => ⟨ha.decoderInv hi, fun a hle => ?_⟩, fun hd => ?_⟩
    · have hopt := ha.op
      rw [ha.kept a hle, hkept a (by omega)]
    · have hst : t.status = s.status := ha.frame .status (by decide)
      exact nomatch (hst.trans hb).symm.trans hd

/-- Settles O51: every step of the run answers a state and keeps `DecompressRun`, and every token brings `ip` nearer to
`in_len`. -/
theorem decompressCompletes : Obligations.DecompressCompletes := by
  intro s hs
  have hlaunch := launchDecompress_run hs
  obtain ⟨t, ht⟩ := runBusy_completes (f := decoderStep) (P := DecompressRun s)
    (fun u hb hu => by
      obtain ⟨v, hv⟩ := decoderStep_completes (hu.running hb).1
      exact ⟨v, hv, decoderStep_run hu hb hv⟩) (s.inN + 1) hlaunch
  have hrun := runBusy_keeps (fun _ _ hb hu => decoderStep_run hu hb) hlaunch ht
  rw [← exec_decompress_eq hs] at ht
  have hdone := execDecompress_done ht
  exact ⟨t, ht, hdone, hrun.frame, hrun.ended hdone⟩

/-! ## Steps -/

/-- Settles O12, by the frames of the two commands' steps. -/
theorem busyStepFrame : Obligations.BusyStepFrame := fun _ _ hb h =>
  ⟨fun hc => encoderStep_frame (step_busy_compress hb hc ▸ h), fun hc => decoderStep_frame (step_busy_decompress hb hc ▸ h)⟩

/-- Settles O13, by what a core that is not busy can do and by the end of every whole command. -/
theorem statusMoves : Obligations.StatusMoves := by
  intro s t h
  by_cases hb : s.status = .busy
  · have ht : t.status ≠ .idle := by rcases busyStep_status hb h with ht | ht <;> rw [ht] <;> decide
    exact ⟨fun hi => absurd hi ht, fun hn => absurd hb hn, fun hi => (nomatch hb.symm.trans hi),
      fun _ hn => absurd hb hn⟩
  · rcases step_notBusy hb h with ⟨hh, rfl⟩ | ⟨rest, hh, h⟩ | ⟨rest, hh, h⟩ | ⟨m, rest, hh, hm, hm', h⟩
    · exact ⟨id, fun hn ht => absurd ht hn, fun hi hd => (nomatch hi.symm.trans hd),
        fun _ _ hh' => (nomatch hh.symm.trans hh')⟩
    · have hd := decodeCmd_done h
      exact ⟨fun hi => (nomatch hd.symm.trans hi), fun _ ht => (nomatch hd.symm.trans ht), fun _ _ => ⟨rest, hh⟩,
        fun _ _ _ => hd⟩
    · have ht : t.status = .busy := by rcases launch_next h with ⟨-, -, rfl⟩ | ⟨-, -, rfl⟩ <;> rfl
      exact ⟨fun hi => (nomatch ht.symm.trans hi), fun _ _ => ⟨rest, hh⟩, fun _ hd => (nomatch ht.symm.trans hd),
        fun _ _ hh' => (nomatch hh.symm.trans hh')⟩
    · have hst : t.status = s.status := (hostMove_quiet hm' h).1
      refine ⟨hst.symm.trans, fun hn ht => absurd (hst.symm.trans ht) hn,
        fun hi hd => (nomatch (hst.trans hi).symm.trans hd), fun _ _ hh' => ?_⟩
      obtain ⟨rfl, -⟩ := List.cons.inj (hh.symm.trans hh')
      exact absurd rfl hm

/-- Settles O50, by what a token does to the cursors. -/
theorem tokenMovesCursors : Obligations.TokenMovesCursors := by
  intro s t hb hc hi hlt h ht
  rw [step_busy_decompress hb hc] at h
  rcases decoderStep_next h with rfl | ⟨heq, -⟩ | ⟨-, n, k, hn, ha⟩
  · exact nomatch (errorExit_status s).symm.trans ht
  · exact absurd heq hlt.ne
  · exact ha.cursors hn hi

/-- Settles O8: the decoder yields tokens only, and `execToken` gives a token the meaning `exec` gives it. -/
theorem stepRunsTheInstruction : Obligations.StepRunsTheInstruction := by
  refine ⟨fun s bs i rest hb hc hlt hbs hd => ?_, fun s hb hc hlt => ?_, fun s rest hb hh => step_start hb hh⟩
  · rw [step_busy_decompress hb hc, decoderStep, if_pos hlt, hbs]
    simp only [hd]
    exact execToken_eq_exec (decode_writingToken hd).1 s
  · rw [step_busy_compress hb hc, encoderStep, if_pos hlt]
    rfl

theorem byte?_ofBytes : ∀ (bs : List Byte) (base a : Nat), (Memory.ofBytes base bs).byte? (base + a) = bs[a]?
  | [], _, _ => rfl
  | b :: bs, base, 0 => by simp [Memory.ofBytes, Memory.byte?]
  | b :: bs, base, a + 1 => by
    have ih := byte?_ofBytes bs (base + 1) a
    rw [show base + 1 + a = base + (a + 1) by omega] at ih
    simpa [Memory.ofBytes, Memory.byte?] using ih

/-- Settles O14, move by move. -/
theorem hostMovesChangeOnePart : Obligations.HostMovesChangeOnePart := by
  intro s rest hb
  refine ⟨step_wait hb, fun v hh => ⟨_, step_move hb (by simp) hh, rfl, ?_⟩,
    fun v hh => ⟨_, step_move hb (by simp) hh, rfl, ?_⟩, fun v hh => ⟨_, step_move hb (by simp) hh, rfl, ?_⟩,
    fun v hh => ⟨_, step_move hb (by simp) hh, rfl, ?_⟩,
    fun base bytes hh => ⟨_, step_move hb (by simp) hh, rfl, rfl, fun a => ?_, ?_⟩,
    fun base bytes hh => ⟨_, step_move hb (by simp) hh, rfl, rfl, fun a => ?_, ?_⟩⟩
  case refine_5 | refine_7 =>
    have := byte?_ofBytes bytes 0 a
    rwa [Nat.zero_add] at this
  all_goals
    intro part hp
    cases part <;> simp_all [Part.Same]

/-! ## Nothing is carried over -/

/-- How an instruction that raises no error ends does not depend on the state it is concluded in. -/
theorem conclude_of_neverRaises {r : Except Stop State} (hr : NeverRaises r) (s s' : State) :
    conclude s r = conclude s' r := by
  cases r with
  | ok t => rfl
  | error e =>
    cases e with
    | raise c => exact absurd rfl (hr c)
    | fault f => rfl
    | refuse x => rfl

/-- Settles O54: the searches read none of the registers in question, and a token begins by assigning them. -/
theorem noRegisterCarriesOver : Obligations.NoRegisterCarriesOver := by
  intro s
  refine ⟨fun p m => ?_, fun x n m hb hd => ?_, fun i d hi hip hop => ?_⟩
  · simp only [exec, execFindMatch, findMatchOp_withMf]
    refine conclude_of_neverRaises (fun c h => ?_) _ _
    split at h
    · next hf => cases h; exact findMatchOp_neverRaises p s c hf
    · cases h
    · cases h
  · simp only [exec, execProbe, probeOp_withMf x n hb hd]
    refine conclude_of_neverRaises (fun c h => ?_) _ _
    split at h
    · next hf => cases h; exact probeOp_neverRaises x n s c hf
    · cases h
  · rw [exec_token hi, exec_token hi, tokenBody, takeTag_withDec _ hip hop, conclude_withDec]
    rfl

end Sys2Proof.Proofs

/-! SUPPORT. The varint: its rounds, the value of its bytes, the bijection between operands and canonical strings (R95 to R97),
and its two instructions. -/

namespace Sys2Proof.Proofs

open Sys2Proof.Machine Sys2Proof.Safety

/-! ## The varint's rounds and its value (R95, R96) -/

/-- Fuel beyond the operand changes nothing. -/
theorem varintEncLoop_fuel : ∀ {f g x : Nat}, x ≤ f → x ≤ g → varintEncLoop f x = varintEncLoop g x
  | 0, 0, _, _, _ => rfl
  | 0, g + 1, x, hf, _ => by rw [varintEncLoop, varintEncLoop, if_neg (by omega)]
  | f + 1, 0, x, _, hg => by rw [varintEncLoop, varintEncLoop, if_neg (by omega)]
  | f + 1, g + 1, x, hf, hg => by
    have ih := varintEncLoop_fuel (f := f) (g := g) (x := (x - 128) / 128) (by omega) (by omega)
    rw [varintEncLoop, varintEncLoop, ih]

theorem varintEnc_of_lt {x : Nat} (h : x < 128) : varintEnc x = [BitVec.ofNat 8 x] := by
  rw [varintEnc, varintEncLoop_fuel le_rfl (Nat.le_succ x), varintEncLoop, if_neg (by omega)]

theorem varintEnc_of_le {x : Nat} (h : 128 ≤ x) :
    varintEnc x = BitVec.ofNat 8 (128 + (x - 128) % 128) :: varintEnc ((x - 128) / 128) := by
  rw [varintEnc, varintEncLoop_fuel le_rfl (Nat.le_succ x), varintEncLoop, if_pos h, varintEnc,
    varintEncLoop_fuel (x := (x - 128) / 128) (by omega) le_rfl]

/-- The operand below 128, or one round more than a smaller operand: the recursion of R95. -/
theorem varintEnc_induction {P : Nat → Prop} (last : ∀ x, x < 128 → P x)
    (round : ∀ x, 128 ≤ x → P ((x - 128) / 128) → P x) (x : Nat) : P x := by
  induction x using Nat.strong_induction_on with
  | _ x ih =>
    rcases Nat.lt_or_ge x 128 with h | h
    · exact last x h
    · exact round x h (ih _ (by omega))

/-- The first value that needs more than `n` bytes (R97). -/
def varintBound : Nat → Nat
  | 0 => 0
  | n + 1 => 128 + 128 * varintBound n

theorem varintEnc_length_le_iff {n x : Nat} : (varintEnc x).length ≤ n ↔ x < varintBound n := by
  induction n generalizing x with
  | zero =>
    rcases Nat.lt_or_ge x 128 with h | h
    · simp [varintEnc_of_lt h, varintBound]
    · simp [varintEnc_of_le h, varintBound]
  | succ n ih =>
    rcases Nat.lt_or_ge x 128 with h | h
    · simp only [varintEnc_of_lt h, List.length_singleton, varintBound]; omega
    · rw [varintEnc_of_le h, List.length_cons, Nat.add_le_add_iff_right, ih, varintBound]; omega

/-- What the bytes of a varint add up to (R96), least significant first. -/
def varintValue : List Byte → Nat
  | [] => 0
  | c :: bs => c.toNat + 128 * varintValue bs

/-- A string of `k - 1` bytes at or above 128 and one below (R97). -/
def VarintCanonical (bs : List Byte) : Prop :=
  ∃ init c, bs = init ++ [c] ∧ (∀ b ∈ init, 128 ≤ b.toNat) ∧ c.toNat < 128

theorem varintEnc_canonical (x : Nat) : VarintCanonical (varintEnc x) := by
  induction x using varintEnc_induction with
  | last x h => exact ⟨[], BitVec.ofNat 8 x, varintEnc_of_lt h, by simp, by simp; omega⟩
  | round x h ih =>
    obtain ⟨init, c, heq, hinit, hc⟩ := ih
    refine ⟨BitVec.ofNat 8 (128 + (x - 128) % 128) :: init, c, by rw [varintEnc_of_le h, heq]; rfl, ?_, hc⟩
    simp only [List.forall_mem_cons, BitVec.toNat_ofNat]
    exact ⟨by omega, hinit⟩

theorem varintValue_varintEnc (x : Nat) : varintValue (varintEnc x) = x := by
  induction x using varintEnc_induction with
  | last x h => simp only [varintEnc_of_lt h, varintValue, BitVec.toNat_ofNat]; omega
  | round x h ih => rw [varintEnc_of_le h, varintValue, ih, BitVec.toNat_ofNat]; omega

theorem varintEnc_varintValue {bs : List Byte} (h : VarintCanonical bs) : varintEnc (varintValue bs) = bs := by
  obtain ⟨init, c, rfl, hinit, hc⟩ := h
  induction init with
  | nil =>
    simp only [List.nil_append, varintValue, Nat.mul_zero, Nat.add_zero, varintEnc_of_lt hc, BitVec.ofNat_toNat,
      BitVec.setWidth_eq]
  | cons b init ih =>
    obtain ⟨hb, hinit⟩ := List.forall_mem_cons.1 hinit
    have hlt := b.isLt
    rw [List.cons_append, varintValue, varintEnc_of_le (by omega)]
    have hrem : 128 + (b.toNat + 128 * varintValue (init ++ [c]) - 128) % 128 = b.toNat := by omega
    have hquo : (b.toNat + 128 * varintValue (init ++ [c]) - 128) / 128 = varintValue (init ++ [c]) := by omega
    rw [hrem, hquo, ih hinit, BitVec.ofNat_toNat, BitVec.setWidth_eq]

theorem varintValue_lt_varintBound {n : Nat} {bs : List Byte} (h : VarintCanonical bs) (hlen : bs.length ≤ n) :
    varintValue bs < varintBound n := by
  rwa [← varintEnc_length_le_iff, varintEnc_varintValue h]

/-- Bytes that all carry their high bit add up to at least the first value that needs one byte more. -/
theorem varintBound_le_varintValue : ∀ {bs : List Byte}, (∀ b ∈ bs, 128 ≤ b.toNat) →
    varintBound bs.length ≤ varintValue bs
  | [], _ => le_rfl
  | c :: bs, h => by
    obtain ⟨hc, hbs⟩ := List.forall_mem_cons.1 h
    have ih := varintBound_le_varintValue hbs
    simp only [List.length_cons, varintBound, varintValue]
    omega

theorem varintValue_le (bs : List Byte) : 127 * varintValue bs + 255 ≤ 255 * 128 ^ bs.length := by
  induction bs with
  | nil => simp [varintValue]
  | cons c bs ih =>
    have hc := c.isLt
    simp only [varintValue, List.length_cons, pow_succ]
    omega

theorem sum_zipIdx_eq_varintValue (bs : List Byte) (i : Nat) :
    ((bs.zipIdx i).map fun c => c.1.toNat * 2 ^ (7 * c.2)).sum = varintValue bs * 2 ^ (7 * i) := by
  induction bs generalizing i with
  | nil => simp [varintValue]
  | cons c bs ih =>
    simp only [List.zipIdx_cons, List.map_cons, List.sum_cons, ih, varintValue, Nat.mul_add, pow_add]
    ring

/-! ## What VARINT_DEC accepts (R96, R97) -/

theorem varintWhole_iff {n : Nat} {bs : List Byte} : varintWhole n bs = true ↔
    ∃ init c, bs = init ++ [c] ∧ (∀ b ∈ init, 128 ≤ b.toNat) ∧ init.length < n ∧
      (c.toNat < 128 ∨ init.length + 1 = n) := by
  induction n generalizing bs with
  | zero => simp [varintWhole]
  | succ n ih =>
    cases bs with
    | nil => simp [varintWhole]
    | cons b bs =>
      rw [varintWhole]
      constructor
      · intro h
        split at h
        · next hlast =>
          rw [List.isEmpty_iff] at h
          subst h
          exact ⟨[], b, rfl, by simp, by simp, by simpa [eq_comm] using hlast⟩
        · obtain ⟨init, c, rfl, hinit, hlen, hc⟩ := ih.1 h
          have hall : ∀ b' ∈ b :: init, 128 ≤ b'.toNat := List.forall_mem_cons.2 ⟨by omega, hinit⟩
          exact ⟨b :: init, c, rfl, hall, by simpa using hlen, by simpa using hc⟩
      · rintro ⟨init, c, heq, hinit, hlen, hc⟩
        cases init with
        | nil =>
          cases heq
          rw [if_pos (by simpa [eq_comm] using hc)]
          rfl
        | cons b' init =>
          cases heq
          obtain ⟨hb, hinit⟩ := List.forall_mem_cons.1 hinit
          simp only [List.length_cons] at hlen hc
          rw [if_neg (by omega), ih]
          exact ⟨init, c, rfl, hinit, by omega, by omega⟩

/-- One byte of VARINT_DEC (R96): the last one, below 128 or the fifth, or one with more behind it. -/
theorem varintDecLoop_cons (n i : Nat) (c : Byte) (bs : List Byte) : varintDecLoop (n + 1) i (c :: bs) =
    if c.toNat < 128 ∨ n = 0 then some (c.toNat * 2 ^ (7 * i), bs)
    else (varintDecLoop n (i + 1) bs).map fun r => (c.toNat * 2 ^ (7 * i) + r.1, r.2) := by
  rw [varintDecLoop, Nat.shiftLeft_eq]
  by_cases hc : c.toNat < 128
  · simp [hc]
  · cases n with
    | zero => simp [hc, varintDecLoop]
    | succ n =>
      simp only [hc, false_or, if_false, Nat.add_one_ne_zero]
      cases varintDecLoop (n + 1) (i + 1) bs <;> rfl

/-- VARINT_DEC takes exactly a whole varint from the head of the stream and answers its value. -/
theorem varintDecLoop_eq_some_iff {n i x : Nat} {bs rest : List Byte} : varintDecLoop (n + 1) i bs = some (x, rest) ↔
    ∃ used, varintWhole (n + 1) used = true ∧ bs = used ++ rest ∧ varintValue used * 2 ^ (7 * i) = x := by
  induction bs generalizing n i x with
  | nil =>
    constructor
    · rintro ⟨⟩
    · rintro ⟨used, hw, hb, -⟩
      obtain ⟨rfl, -⟩ := List.append_eq_nil_iff.1 hb.symm
      cases hw
  | cons c bs ih =>
    have hround (v : Nat) : (c.toNat + 128 * v) * 2 ^ (7 * i) = c.toNat * 2 ^ (7 * i) + v * 2 ^ (7 * (i + 1)) := by
      rw [Nat.mul_add, pow_add]; ring
    rw [varintDecLoop_cons]
    split
    · next hlast =>
      constructor
      · intro h
        cases h
        exact ⟨[c], by rw [varintWhole, if_pos hlast]; rfl, rfl, by simp [varintValue]⟩
      · rintro ⟨_ | ⟨b, used⟩, hw, hb, rfl⟩
        · cases hw
        · cases hb
          rw [varintWhole, if_pos hlast, List.isEmpty_iff] at hw
          simp [hw, varintValue]
    · next hmore =>
      obtain ⟨m, rfl⟩ := Nat.exists_eq_succ_of_ne_zero fun h => hmore (.inr h)
      constructor
      · intro h
        obtain ⟨⟨y, r⟩, hy, he⟩ := Option.map_eq_some_iff.1 h
        cases he
        obtain ⟨used, hw, rfl, rfl⟩ := ih.1 hy
        exact ⟨c :: used, by rw [varintWhole, if_neg hmore, hw], rfl, hround _⟩
      · rintro ⟨_ | ⟨b, used⟩, hw, hb, rfl⟩
        · cases hw
        · cases hb
          rw [varintWhole, if_neg hmore] at hw
          rw [ih.2 ⟨used, hw, rfl, rfl⟩, varintValue, hround]
          rfl

theorem varintDec_eq_some_iff {x : Nat} {bs rest : List Byte} : varintDec bs = some (x, rest) ↔
    ∃ used, varintWhole 5 used = true ∧ bs = used ++ rest ∧ varintValue used = x := by
  simp [varintDec, varintDecLoop_eq_some_iff]

/-- Below the limit VARINT_DEC reads nothing but what VARINT_ENC writes (R97, R101). -/
theorem varintDec_eq_some_iff_of_lt {x : Nat} (hx : x < 34630287488) {bs rest : List Byte} :
    varintDec bs = some (x, rest) ↔ bs = varintEnc x ++ rest := by
  rw [varintDec_eq_some_iff]
  constructor
  · rintro ⟨used, hw, rfl, rfl⟩
    obtain ⟨init, c, rfl, hinit, -, hc⟩ := varintWhole_iff.1 hw
    have hlast : c.toNat < 128 := by
      by_contra hge
      have hall : ∀ b ∈ init ++ [c], 128 ≤ b.toNat := by
        simp only [List.forall_mem_append, List.forall_mem_singleton]; exact ⟨hinit, by omega⟩
      have hle := varintBound_le_varintValue hall
      rw [List.length_append, List.length_singleton, hc.resolve_left hge] at hle
      simp only [varintBound] at hle
      omega
    rw [varintEnc_varintValue ⟨init, c, rfl, hinit, hlast⟩]
  · rintro rfl
    refine ⟨varintEnc x, ?_, rfl, varintValue_varintEnc x⟩
    have hlen : (varintEnc x).length ≤ 5 := varintEnc_length_le_iff.2 hx
    obtain ⟨init, c, heq, hinit, hc⟩ := varintEnc_canonical x
    rw [heq, List.length_append, List.length_singleton] at hlen
    exact varintWhole_iff.2 ⟨init, c, heq, hinit, hlen, .inl hc⟩

/-- Settles O3: VARINT_ENC and the bytes' value are inverse on canonical strings, and a whole varint that is not canonical has
five bytes. -/
theorem varintProperties : Obligations.VarintProperties := by
  refine ⟨fun x rest hx => (varintDec_eq_some_iff_of_lt hx).2 rfl, fun x hx => ?_, fun bs c hlen hbs hc => ?_,
    fun bs x hdec hnever => ?_⟩
  · have hle (n : Nat) := varintEnc_length_le_iff (n := n) (x := x)
    have h0 := hle 0
    have h1 := hle 1
    have h2 := hle 2
    have h3 := hle 3
    have h4 := hle 4
    have h5 := hle 5
    simp only [varintBound] at h0 h1 h2 h3 h4 h5
    split_ifs <;> omega
  · have hcanon : VarintCanonical (bs ++ [c]) := ⟨bs, c, rfl, hbs, hc⟩
    have hlt : varintValue (bs ++ [c]) < varintBound 5 :=
      varintValue_lt_varintBound hcanon (by simpa [Nat.lt_succ_iff] using hlen)
    exact ⟨_, ⟨hlt, varintEnc_varintValue hcanon⟩, fun y ⟨_, hy⟩ => by rw [← hy, varintValue_varintEnc]⟩
  · obtain ⟨used, hw, hused, rfl⟩ := varintDec_eq_some_iff.1 hdec
    obtain rfl : bs = used := by rw [hused, List.append_nil]
    obtain ⟨init, c, rfl, hinit, hlen, hc⟩ := varintWhole_iff.1 hw
    have hge : 128 ≤ c.toNat := by
      by_contra hlt
      have hcanon : VarintCanonical (init ++ [c]) := ⟨init, c, rfl, hinit, by omega⟩
      exact hnever _ (varintValue_lt_varintBound hcanon (n := 5) (by simpa using hlen)) (varintEnc_varintValue hcanon)
    exact ⟨by rw [List.length_append, List.length_singleton]; omega, c, List.getLast?_concat, hge⟩

/-! ## The varint operations as instructions -/

theorem sameBut_withRet (s : State) (v : Ret) : SameBut [.ret] s (s.withRet v) := by
  intro part hp
  cases part <;> simp_all [Part.Same]

theorem exec_varintEnc (x : Nat) (s : State) : exec (.varintEnc x) s = .next (s.withRet (.bytes (varintEnc x))) := rfl

theorem exec_varintDec_of_some {bytes rest : List Byte} {x : Nat} (h : varintDec bytes = some (x, rest)) (s : State) :
    exec (.varintDec bytes) s = .next (s.withRet (.value x)) := by
  rw [exec, execVarintDec, h]
  rfl

theorem exec_varintDec_of_none {bytes : List Byte} (h : varintDec bytes = none) (s : State) :
    exec (.varintDec bytes) s = .next (errorExit s) := by
  rw [exec, execVarintDec, h]
  rfl

theorem endsInError_errorExit (s : State) : EndsInError s (.next (errorExit s)) :=
  ⟨errorExit s, rfl, errorExit_result s, errorExit_status s, (sameBut_errorExit s).mono (by decide), fun a ha => by
    rw [errorExit_outMem, Memory.byte?_scramble_outside (by omega)]⟩

/-- Settles O4, by the two equations of VARINT_ENC. -/
theorem varintEncRounds : Obligations.VarintEncRounds := by
  intro s x
  refine ⟨_, varintEnc x, exec_varintEnc x s, rfl, sameBut_withRet s _, varintEnc_of_lt,
    fun h => ⟨_, _, exec_varintEnc _ s, rfl, varintEnc_of_le h⟩, fun hx => ⟨?_, varintEnc_length_le_iff.2 hx⟩⟩
  have hnone := varintEnc_length_le_iff (n := 0) (x := x)
  simp only [varintBound] at hnone
  omega

/-- Settles O5: a whole varint is read to its end, and VARINT_DEC reads nothing from bytes that hold no whole one. -/
theorem varintDecSums : Obligations.VarintDecSums := by
  refine fun s bytes => ⟨fun hw => ?_, fun hlen hall => ?_⟩
  · have hdec := varintDec_eq_some_iff.2 ⟨bytes, hw, (List.append_nil bytes).symm, rfl⟩
    have hsum := sum_zipIdx_eq_varintValue bytes 0
    rw [Nat.mul_zero, pow_zero, Nat.mul_one] at hsum
    refine ⟨_, _, exec_varintDec_of_some hdec s, rfl, sameBut_withRet s _, hsum.symm, ?_⟩
    obtain ⟨init, c, rfl, -, hlen, -⟩ := varintWhole_iff.1 hw
    have hle := varintValue_le (init ++ [c])
    have hpow : 128 ^ (init ++ [c]).length ≤ 128 ^ 5 := Nat.pow_le_pow_right (by decide) (by simpa using hlen)
    omega
  · have hdec : varintDec bytes = none := by
      rw [Option.eq_none_iff_forall_ne_some]
      rintro ⟨x, rest⟩ hsome
      obtain ⟨used, hw, rfl, -⟩ := varintDec_eq_some_iff.1 hsome
      obtain ⟨init, c, rfl, -, -, hc⟩ := varintWhole_iff.1 hw
      have hge := hall c (by simp)
      simp only [List.length_append, List.length_singleton] at hlen
      omega
    rw [exec_varintDec_of_none hdec]
    exact endsInError_errorExit s

end Sys2Proof.Proofs

/-! SUPPORT. The token encodings: each part of the decoder is inverted once (R91 to R99), then every form at once. -/

namespace Sys2Proof.Proofs

open Sys2Proof.Machine Sys2Proof.Safety

/-! ## Tag byte and distance field (R91, R99) -/

theorem tagRunCode_eq (tag : Byte) : tagRunCode tag = tag.toNat / 32 := by
  simp [tagRunCode, Nat.shiftRight_eq_div_pow]

theorem tagDistHi_eq (tag : Byte) : tagDistHi tag = tag.toNat / 16 % 2 := by
  simp [tagDistHi, Nat.shiftRight_eq_div_pow]

theorem toNat_tagLenCode (tag : Byte) : (tagLenCode tag).toNat = tag.toNat % 16 := BitVec.toNat_setWidth 4 tag

theorem toNat_tagLow (tag : Byte) : (tagLow tag).toNat = tag.toNat % 32 := BitVec.toNat_setWidth 5 tag

theorem eq_mkTag_iff_toNat {tag : Byte} {run hi code : Nat} (h : run * 32 + hi * 16 + code < 256) :
    tag = mkTag run hi code ↔ tag.toNat = run * 32 + hi * 16 + code := by
  rw [← BitVec.toNat_inj, mkTag, BitVec.toNat_ofNat, Nat.mod_eq_of_lt h]

theorem distHi_lt (dist : BitVec 17) : distHi dist < 2 := by
  have := dist.isLt
  unfold distHi; omega

/-- The tag byte of a token with a match is its three fields (R91). -/
theorem eq_mkTag_iff {tag : Byte} {run : Nat} {dist : BitVec 17} {code : BitVec 4} (hrun : run < 8) :
    tag = mkTag run (distHi dist) code.toNat ↔
      tagRunCode tag = run ∧ tagDistHi tag = distHi dist ∧ tagLenCode tag = code := by
  have hhi := distHi_lt dist
  have hcode := code.isLt
  have htag := tag.isLt
  rw [eq_mkTag_iff_toNat (by omega), tagRunCode_eq, tagDistHi_eq, ← BitVec.toNat_inj, toNat_tagLenCode]
  omega

/-- The same for a tag byte that announces a length varint (R98). -/
theorem eq_mkTag_long_iff {tag : Byte} {run : Nat} {dist : BitVec 17} (hrun : run < 8) :
    tag = mkTag run (distHi dist) 15 ↔ tagRunCode tag = run ∧ tagDistHi tag = distHi dist ∧ tagLenCode tag = 15 :=
  eq_mkTag_iff (code := 15) hrun

/-- The tag byte of an L token is its run code and its ignored bits (R93). -/
theorem eq_mkTag_low_iff {tag : Byte} {run : Nat} {low : BitVec 5} (hrun : run < 8) :
    tag = mkTag run 0 low.toNat ↔ tagRunCode tag = run ∧ tagLow tag = low := by
  have hlow := low.isLt
  have htag := tag.isLt
  rw [eq_mkTag_iff_toNat (by omega), tagRunCode_eq, ← BitVec.toNat_inj, toNat_tagLow]
  omega

theorem tagDistHi_lt (tag : Byte) : tagDistHi tag < 2 := by rw [tagDistHi_eq]; omega

theorem mkDist_eq_iff {hi : Nat} (hhi : hi < 2) {b0 b1 : Byte} {dist : BitVec 17} :
    mkDist hi b0 b1 = dist ↔ hi = distHi dist ∧ [b0, b1] = dist16 dist := by
  have h0 := b0.isLt
  have h1 := b1.isLt
  have hd := dist.isLt
  simp only [mkDist, distHi, dist16, List.cons.injEq, and_true, ← BitVec.toNat_inj, BitVec.toNat_ofNat]
  omega

theorem decodeDist_eq_some_iff {tag : Byte} {bs rest : List Byte} {dist : BitVec 17} :
    decodeDist tag bs = some (dist, rest) ↔ tagDistHi tag = distHi dist ∧ bs = dist16 dist ++ rest := by
  match bs with
  | [] => simp [decodeDist, dist16]
  | [b0] => simp [decodeDist, dist16]
  | b0 :: b1 :: tail =>
    rw [decodeDist, Option.some.injEq, Prod.mk.injEq, mkDist_eq_iff (tagDistHi_lt tag)]
    simp [dist16, and_assoc]

/-! ## The decoder, part by part (R92, R93) -/

/-- The match fields (R92, R98): a distance behind the tag's own length, or behind a length varint. -/
theorem decodeMatch_eq_ok_iff {tag : Byte} {bs rest : List Byte} {short : BitVec 4 → BitVec 17 → Instr}
    {long : Nat → BitVec 17 → Instr} {i : Instr} : decodeMatch tag bs short long = .ok (i, rest) ↔
    (tagLenCode tag ≠ 15 ∧ ∃ dist, decodeDist tag bs = some (dist, rest) ∧ short (tagLenCode tag) dist = i) ∨
    (tagLenCode tag = 15 ∧ ∃ x tail dist, varintDec bs = some (x, tail) ∧ decodeDist tag tail = some (dist, rest) ∧
      long x dist = i) := by
  unfold decodeMatch
  split
  · next hlen =>
    split
    · next hvar => simp [hlen, hvar]
    · next hvar => split <;> simp_all [and_comm]
  · next hlen => split <;> simp_all [and_comm]

theorem decodeMatch_nil_ne_ok {tag : Byte} {short : BitVec 4 → BitVec 17 → Instr} {long : Nat → BitVec 17 → Instr}
    {r : Instr × List Byte} : decodeMatch tag [] short long ≠ .ok r := by
  unfold decodeMatch
  split <;> simp [decodeDist, varintDec, varintDecLoop]

theorem decodeLits_append {run : Nat} {tag : Byte} {ls tail : List Byte} {final : BitVec 5 → List Byte → Instr}
    {short : List Byte → BitVec 4 → BitVec 17 → Instr} {long : List Byte → Nat → BitVec 17 → Instr}
    (h : ls.length = run) : decodeLits run tag (ls ++ tail) final short long =
      if tail = [] then .ok (final (tagLow tag) ls, []) else decodeMatch tag tail (short ls) (long ls) := by
  rw [decodeLits, if_neg (by simp [h]), List.drop_left' h, List.take_left' h]
  cases tail <;> rfl

/-- The literals are an L token's where the stream ends behind them, else match fields follow (R93). -/
theorem decodeLits_eq_ok_iff {run : Nat} {tag : Byte} {bs rest : List Byte}
    {final : BitVec 5 → List Byte → Instr} {short : List Byte → BitVec 4 → BitVec 17 → Instr}
    {long : List Byte → Nat → BitVec 17 → Instr} {i : Instr} :
    decodeLits run tag bs final short long = .ok (i, rest) ↔
    ∃ ls tail, ls.length = run ∧ bs = ls ++ tail ∧ (tail = [] ∧ rest = [] ∧ final (tagLow tag) ls = i ∨
      decodeMatch tag tail (short ls) (long ls) = .ok (i, rest)) := by
  constructor
  · intro h
    have hlen : run ≤ bs.length := by
      by_contra hlt
      rw [decodeLits, if_pos (by omega)] at h
      cases h
    have htake := List.length_take_of_le hlen
    refine ⟨bs.take run, bs.drop run, htake, (List.take_append_drop run bs).symm, ?_⟩
    rw [← List.take_append_drop run bs, decodeLits_append htake] at h
    split at h
    · next hnil => cases h; exact .inl ⟨hnil, rfl, rfl⟩
    · exact .inr h
  · rintro ⟨ls, tail, hlen, rfl, ⟨rfl, rfl, rfl⟩ | h⟩
    · rw [decodeLits_append hlen, if_pos rfl]
    · rw [decodeLits_append hlen, if_neg]
      · exact h
      · rintro rfl
        exact decodeMatch_nil_ne_ok h

/-- The run code selects between no literals, 1 to 6 of them, and a run varint (R94). -/
theorem decode_cons_eq_ok_iff {tag : Byte} {bs rest : List Byte} {i : Instr} :
    decode (tag :: bs) = .ok (i, rest) ↔
    (tagRunCode tag = 0 ∧ decodeMatch tag bs .mS .mX = .ok (i, rest)) ∨
    (tagRunCode tag ≠ 0 ∧ tagRunCode tag ≠ 7 ∧ decodeLits (tagRunCode tag) tag bs .lS .lmSS .lmSX = .ok (i, rest)) ∨
    (tagRunCode tag = 7 ∧ ∃ run tail, 7 ≤ run ∧ varintDec bs = some (run - 7, tail) ∧
      decodeLits run tag tail .lX .lmXS .lmXX = .ok (i, rest)) := by
  rw [decode]
  split
  · next h0 => simp [h0]
  · next h0 =>
    split
    · next h7 =>
      split
      · next hvar => simp [h7, hvar]
      · next x tail hvar =>
        simp only [h7, hvar, Option.some.injEq, Prod.mk.injEq]
        constructor
        · exact fun h => .inr (.inr ⟨trivial, 7 + x, tail, by omega, ⟨by omega, rfl⟩, h⟩)
        · rintro (⟨⟨⟩, -⟩ | ⟨-, h, -⟩ | ⟨-, run, _, hrun, ⟨rfl, rfl⟩, h⟩)
          · exact absurd rfl h
          · rwa [Nat.add_sub_cancel' hrun]
    · next h7 => simp [h0, h7]

/-! ## Well-formed tokens and their encodings (R90 to R103) -/

theorem varintFits_iff {x : Nat} : varintFits x = true ↔ x < 34630287488 := by
  rw [varintFits, decide_eq_true_iff, varintLimit]

theorem shortLen_iff {code : BitVec 4} : shortLen code = true ↔ code ≠ 15 := by rw [shortLen, decide_eq_true_iff]

theorem shortRun_iff {ls : List Byte} : shortRun ls = true ↔ 1 ≤ ls.length ∧ ls.length ≤ 6 := by
  rw [shortRun, Bool.and_eq_true, decide_eq_true_iff, decide_eq_true_iff]

theorem longRun_iff {ls : List Byte} : longRun ls = true ↔ 7 ≤ ls.length ∧ ls.length - 7 < 34630287488 := by
  rw [longRun, Bool.and_eq_true, decide_eq_true_iff, varintFits_iff]

theorem encode_ne_nil (i : Instr) : encode i ≠ some [] := by cases i <;> simp [encode]

theorem encode_isSome {i : Instr} (h : i.isToken = true) : ∃ bs, encode i = some bs := by
  cases i
  case mX | mS | lmXX | lmXS | lmSX | lmSS | lX | lS => exact ⟨_, rfl⟩
  all_goals cases h

/-- A well-formed token is read from exactly its encoding (R90 to R103), and an L token has nothing behind it (R93). -/
theorem decode_eq_ok_iff {i : Instr} (hi : i.isToken = true) (hwf : i.wf = true) {bs rest : List Byte} :
    decode bs = .ok (i, rest) ↔ (i.isFinal = true → rest = []) ∧ ∃ used, encode i = some used ∧ bs = used ++ rest := by
  cases bs with
  | nil => simp [decode, encode_ne_nil, eq_comm (a := ([] : List Byte)), List.append_eq_nil_iff]
  | cons tag bs =>
    rw [decode_cons_eq_ok_iff]
    cases i
    case mX | mS | lmXX | lmXS | lmSX | lmSS | lX | lS =>
      simp only [Instr.wf, Bool.and_eq_true, shortLen_iff, varintFits_iff, shortRun_iff, longRun_iff] at hwf
      simp (disch := omega) [decodeMatch_eq_ok_iff, decodeLits_eq_ok_iff, decodeDist_eq_some_iff, encode, runVar,
        Instr.isFinal, varintDec_eq_some_iff_of_lt, eq_mkTag_iff, eq_mkTag_long_iff, eq_mkTag_low_iff]
      -- Both sides now name the same fields; what is left is their order, and that a short length code is not 15.
      grind
    all_goals cases hi

/-- Settles O1: the encoding is what the decoder reads the token from. -/
theorem tokenDecodeEncode : Obligations.TokenDecodeEncode := by
  intro i rest hi hwf hfinal
  obtain ⟨bs, hbs⟩ := encode_isSome hi
  exact ⟨bs, hbs, (decode_eq_ok_iff hi hwf).2 ⟨hfinal, bs, hbs, rfl⟩⟩

/-- Settles O2: the decoder yields tokens only, and reads a well-formed one from its encoding alone. -/
theorem decodedTokenReencodes : Obligations.DecodedTokenReencodes := by
  intro bs i rest h
  obtain ⟨hi, -⟩ := decode_writingToken h
  exact ⟨hi, fun hwf => ((decode_eq_ok_iff hi hwf).1 h).2⟩

/-! ## The assembler (R105) -/

/-- A match length below 19 fits the short field and comes back from it (R98). -/
theorem shortLen_ofNat {len : Nat} (h4 : 4 ≤ len) (h19 : len < 19) :
    shortLen (BitVec.ofNat 4 (len - 4)) = true ∧ (BitVec.ofNat 4 (len - 4)).toNat + 4 = len := by
  have htoNat : (BitVec.ofNat 4 (len - 4)).toNat = len - 4 := by rw [BitVec.toNat_ofNat]; omega
  refine ⟨shortLen_iff.2 fun h15 => ?_, by omega⟩
  rw [h15] at htoNat
  change 15 = len - 4 at htoNat
  omega

/-- An assembled token with a match is well formed and carries the values it was assembled from (R94, R98, R99). -/
theorem assembleMatch_carries {ls : List Byte} {len : Nat} (dist : BitVec 17) (hls : ls.length < 34630287488)
    (h4 : 4 ≤ len) (hlen : len < 34630287488) :
    (assembleMatch ls len dist).isToken = true ∧ (assembleMatch ls len dist).isFinal = false ∧
      (assembleMatch ls len dist).wf = true ∧ lits (assembleMatch ls len dist) = ls ∧
      matchLen (assembleMatch ls len dist) = len ∧ matchDist (assembleMatch ls len dist) = dist.toNat := by
  have hshort := shortLen_ofNat h4
  have hlong (h : ¬len < 19) : varintFits (len - 19) = true ∧ 19 + (len - 19) = len :=
    ⟨varintFits_iff.2 (by omega), by omega⟩
  unfold assembleMatch
  split
  · next hnone =>
    obtain rfl := List.length_eq_zero_iff.1 hnone
    split
    · next h => exact ⟨rfl, rfl, (hshort h).1, rfl, (hshort h).2, rfl⟩
    · next h => exact ⟨rfl, rfl, (hlong h).1, rfl, (hlong h).2, rfl⟩
  · split
    · have hrun : shortRun ls = true := shortRun_iff.2 (by omega)
      split
      · next h => exact ⟨rfl, rfl, Bool.and_eq_true_iff.2 ⟨hrun, (hshort h).1⟩, rfl, (hshort h).2, rfl⟩
      · next h => exact ⟨rfl, rfl, Bool.and_eq_true_iff.2 ⟨hrun, (hlong h).1⟩, rfl, (hlong h).2, rfl⟩
    · have hrun : longRun ls = true := longRun_iff.2 (by omega)
      split
      · next h => exact ⟨rfl, rfl, Bool.and_eq_true_iff.2 ⟨hrun, (hshort h).1⟩, rfl, (hshort h).2, rfl⟩
      · next h => exact ⟨rfl, rfl, Bool.and_eq_true_iff.2 ⟨hrun, (hlong h).1⟩, rfl, (hlong h).2, rfl⟩

/-- The tag of an assembled L token: a run code, and zeros below it (R105). -/
theorem mkTag_final {run : Nat} (h1 : 1 ≤ run) (h8 : run < 8) :
    (mkTag run 0 0).toNat % 32 = 0 ∧ 32 ≤ (mkTag run 0 0).toNat := by
  rw [(eq_mkTag_iff_toNat (by omega)).1 rfl]
  omega

/-- Settles O6: one length form and one run form at a time. -/
theorem assemblerKeepsValues : Obligations.AssemblerKeepsValues := by
  refine fun ls len dist hls => ⟨fun h4 hlen => ⟨_, rfl, assembleMatch_carries dist hls h4 hlen⟩,
    fun hne => ⟨_, rfl, ?_⟩⟩
  have hpos := List.length_pos_iff.2 hne
  unfold assembleFinal
  split
  · exact ⟨rfl, shortRun_iff.2 (by omega), rfl, _, _, rfl, mkTag_final hpos (by omega)⟩
  · exact ⟨rfl, longRun_iff.2 (by omega), rfl, _, _, rfl, mkTag_final (by decide) (by decide)⟩

/-! ## Words of the test vectors (R103, V71 to V88) -/

/-- Settles O7: each word, decoded by the model. -/
theorem specWordsDecode : Obligations.SpecWordsDecode := by
  unfold Obligations.SpecWordsDecode
  decide

end Sys2Proof.Proofs

/-! SUPPORT. The bytes the Match Finder compares (R131, R134, R138): loads that depend on their bytes alone, agreement of two
places of IN, and the hash of a position. -/

namespace Sys2Proof.Proofs

open Sys2Proof.Machine Sys2Proof.Safety

/-! ## Agreement of two places of IN -/

theorem agree_zero (m : Memory) (a b : Nat) : Agree m a b 0 := fun _ hk => absurd hk (Nat.not_lt_zero _)

theorem agree_mono {m : Memory} {a b n k : Nat} (h : Agree m a b n) (hk : k ≤ n) : Agree m a b k :=
  fun j hj => h j (hj.trans_le hk)

theorem sameByte_iff {m : Memory} {a b : Nat} :
    sameByte m a b = true ↔ ∃ v, m.byte? a = some v ∧ m.byte? b = some v := by
  unfold sameByte
  cases m.byte? a <;> cases m.byte? b <;> simp [eq_comm]

/-- Agreement grows at its end. -/
theorem agree_succ {m : Memory} {a b n : Nat} :
    Agree m a b (n + 1) ↔ Agree m a b n ∧ sameByte m (a + n) (b + n) = true := by
  rw [sameByte_iff]
  refine ⟨fun h => ⟨agree_mono h (Nat.le_succ n), h n (Nat.lt_succ_self n)⟩, fun ⟨h, hn⟩ k hk => ?_⟩
  rcases Nat.lt_succ_iff_lt_or_eq.1 hk with hk | rfl
  · exact h k hk
  · exact hn

/-- Agreement grows at its beginning. -/
theorem agree_cons {m : Memory} {a b n : Nat} :
    Agree m a b (n + 1) ↔ sameByte m a b = true ∧ Agree m (a + 1) (b + 1) n := by
  rw [sameByte_iff]
  refine ⟨fun h => ⟨h 0 (Nat.succ_pos n), fun k hk => ?_⟩, fun ⟨h0, h⟩ k hk => ?_⟩
  · rw [Nat.add_assoc, Nat.add_assoc, Nat.add_comm 1 k]
    exact h (k + 1) (Nat.succ_lt_succ hk)
  · cases k with
    | zero => exact h0
    | succ k =>
      have := h k (Nat.lt_of_succ_lt_succ hk)
      rwa [Nat.add_assoc, Nat.add_assoc, Nat.add_comm 1 k] at this

/-- The comparison loops of R134 and R138 test agreement. -/
theorem sameBytes_iff {m : Memory} : ∀ {n a b : Nat}, sameBytes m a b n = true ↔ Agree m a b n
  | 0, a, b => by simp [sameBytes, agree_zero]
  | n + 1, a, b => by rw [agree_cons, sameBytes, Bool.and_eq_true, sameBytes_iff]

/-- Which places agree depends on the compared bytes alone. -/
theorem agree_congr {m m' : Memory} {a b n : Nat} (ha : ∀ k, k < n → m.byte? (a + k) = m'.byte? (a + k))
    (hb : ∀ k, k < n → m.byte? (b + k) = m'.byte? (b + k)) : Agree m a b n ↔ Agree m' a b n :=
  forall_congr' fun k => forall_congr' fun hk => by rw [ha k hk, hb k hk]

/-! ## The hash of a position -/

/-- A load depends on its bytes alone (R9, R64). -/
theorem memRead_congr {m m' : Memory} : ∀ {n a b : Nat}, (∀ k, k < n → m.byte? (a + k) = m'.byte? (b + k)) →
    m.memRead a n = m'.memRead b n
  | 0, _, _, _ => rfl
  | n + 1, a, b, h => by
    have hrest : m.memRead (a + 1) n = m'.memRead (b + 1) n := memRead_congr fun k hk => by
      rw [Nat.add_assoc, Nat.add_assoc, Nat.add_comm 1 k]
      exact h (k + 1) (Nat.succ_lt_succ hk)
    rw [Memory.memRead, Memory.memRead, hrest, show m.byte? a = m'.byte? b from h 0 (Nat.succ_pos n)]

theorem hashAt_eq_map (m : Memory) (x : Nat) :
    hashAt m x = (m.memRead x 4).map fun w => hashWord (BitVec.ofNat 32 w) := by
  unfold hashAt
  cases m.memRead x 4 <;> rfl

theorem hashAt_congr {m m' : Memory} {a b : Nat} (h : ∀ k, k < 4 → m.byte? (a + k) = m'.byte? (b + k)) :
    hashAt m a = hashAt m' b := by
  rw [hashAt, hashAt, memRead_congr h]

/-- Positions that agree on 4 bytes have one hash (R139). -/
theorem hashAt_eq_of_agree {m : Memory} {a b n : Nat} (h : Agree m a b n) (hn : 4 ≤ n) : hashAt m a = hashAt m b :=
  hashAt_congr fun k hk => by
    obtain ⟨v, ha, hb⟩ := h k (hk.trans_le hn)
    rw [ha, hb]

theorem memRead_four {m : Memory} {x : Nat} {b0 b1 b2 b3 : Byte} (h0 : m.byte? x = some b0)
    (h1 : m.byte? (x + 1) = some b1) (h2 : m.byte? (x + 2) = some b2) (h3 : m.byte? (x + 3) = some b3) :
    m.memRead x 4 = some (b0.toNat + b1.toNat * 256 + b2.toNat * 65536 + b3.toNat * 16777216) := by
  simp only [Memory.memRead, Nat.add_assoc, Nat.reduceAdd, h0, h1, h2, h3, Option.some.injEq]
  omega

/-- The hash is the top 18 bits of the 32-bit product (R131). -/
theorem toNat_hashWord (w : Nat) : (hashWord (BitVec.ofNat 32 w)).toNat = w * 2654435769 % 4294967296 / 16384 := by
  have hproduct : (BitVec.ofNat 32 w * 0x9E3779B9#32).toNat = w * 2654435769 % 4294967296 := by
    rw [BitVec.toNat_mul, BitVec.toNat_ofNat, BitVec.toNat_ofNat, Nat.mul_mod w]
  rw [hashWord, BitVec.toNat_setWidth, BitVec.toNat_ushiftRight, hproduct, Nat.shiftRight_eq_div_pow]
  omega

/-- A position is hashed where its four bytes were lent. -/
theorem hashAt_isSome {m : Memory} {n x : Nat} (hc : m.covers n = true) (hx : x + 4 ≤ n) : ∃ h, hashAt m x = some h := by
  have hb : ∀ k, k < 4 → ∃ b, m.byte? (x + k) = some b := fun k hk =>
    Option.isSome_iff_exists.1 ((Memory.covers_iff m n).1 hc (x + k) (by omega))
  obtain ⟨b0, h0⟩ : ∃ b, m.byte? x = some b := hb 0 (by decide)
  obtain ⟨b1, h1⟩ := hb 1 (by decide)
  obtain ⟨b2, h2⟩ := hb 2 (by decide)
  obtain ⟨b3, h3⟩ := hb 3 (by decide)
  exact ⟨_, by rw [hashAt_eq_map, memRead_four h0 h1 h2 h3, Option.map_some]⟩

/-! ## HASH and INSERT -/

/-- Settles O16: the four bytes make the load, and the hash is taken from the wrapping product. -/
theorem hashValue : Obligations.HashValue := by
  intro s x b0 b1 b2 b3 hx h0 h1 h2 h3
  have hh := congrArg (Option.map fun w => hashWord (BitVec.ofNat 32 w)) (memRead_four h0 h1 h2 h3)
  rw [← hashAt_eq_map, Option.map_some] at hh
  refine ⟨_, _, ?_, rfl, hh, sameBut_withRet s _, toNat_hashWord _⟩
  rw [exec, execHash, if_neg (by omega), hh]

/-- Settles O17: the two table writes of INSERT, each read back. -/
theorem insertEffect : Obligations.InsertEffect := by
  intro s q h hw hq hh
  refine ⟨_, congrArg (conclude s) (insertOp_succeeds hq hh), ?_, ?_, fun k hk => ?_, fun k hk => ?_,
    sameBut_withTail_withHead s _ _⟩
  · simp [Table.get_set hw.tail]
  · simp [Table.get_set hw.head]
  · simp [Table.get_set hw.tail, hk]
  · simp [Table.get_set hw.head, hk]

/-! ## Domains (assumption 17) -/

theorem conclude_refuse {s : State} {r : Except Stop State} {x : Refusal} (h : r = .error (.refuse x)) :
    conclude s r = .refused x := by
  rw [h]
  rfl

theorem findMatchOp_outside {s : State} {p : Nat} (h : s.inN ≤ p) :
    findMatchOp p s = .error (.refuse .outsideDomain) := if_pos h

theorem decideOp_outside {s : State} (h : s.inN ≤ s.pN) : decideOp s = .error (.refuse .outsideDomain) := by
  rw [decideOp, searchOp, findMatchOp_outside h]

theorem emitFinalOp_outside {s : State} (h : s.pN < s.runN) : emitFinalOp s = .error (.refuse .outsideDomain) := by
  rw [emitFinalOp, if_neg (by omega), if_pos h]

/-- Settles O36, operation by operation: each tests its domain before it does anything. -/
theorem outsideDomainRefused : Obligations.OutsideDomainRefused := by
  intro s
  refine ⟨fun x hx => if_pos (by omega), fun q hq => conclude_refuse (if_pos hq), fun p hp => conclude_refuse ?_,
    fun hp => conclude_refuse (decideOp_outside hp), fun h => conclude_refuse (if_pos h),
    fun h => conclude_refuse (emitFinalOp_outside h), fun h => conclude_refuse (if_pos h),
    fun len dist h => conclude_refuse (if_pos h), fun d src n h => ?_, fun d space src n => rfl⟩
  · rw [findMatchOp_outside hp]
  · rw [exec, execWildcopy, if_neg (by decide), if_pos ⟨rfl, h⟩]

end Sys2Proof.Proofs

/-! SUPPORT. The walks of FIND_MATCH and PROBE without their loop (R134 to R139): the chain a walk visits, what a walk over it
finds, and the chain as the list of candidates where the table invariant holds. -/

namespace Sys2Proof.Proofs

open Sys2Proof.Machine Sys2Proof.Safety

/-! ## The chain a walk visits -/

/-- The candidates a walk reaches from `s` with a budget of `n`, whatever it finds at them (R135). -/
def chainFrom (tail : Table) (limit : Int) : Nat → Int → List Nat
  | 0, _ => []
  | n + 1, s => if limit < s then s.toNat :: chainFrom tail limit n (chainNext tail s) else []

/-- PROBE's walk answers true exactly where a position of its chain agrees (R138). -/
theorem probeWalk_iff {m : Memory} {tail : Table} {x target : Nat} {limit : Int} : ∀ {n : Nat} {s : Int},
    (probeWalk m tail x target limit n s).1 = true ↔ ∃ q ∈ chainFrom tail limit n s, Agree m q x target
  | 0, s => by simp [probeWalk, chainFrom]
  | n + 1, s => by
    rw [probeWalk, chainFrom]
    split
    · rw [List.exists_mem_cons_iff, ← sameBytes_iff]
      by_cases hs : sameBytes m s.toNat x target = true
      · simp [hs]
      · rw [if_neg hs]
        cases n with
        | zero => simp [hs, chainFrom]
        | succ n => rw [if_neg (Nat.succ_ne_zero n), probeWalk_iff, or_iff_right hs]
    · simp

/-! ## What a FIND_MATCH walk finds -/

/-- What FIND_MATCH holds after it has seen these candidates (R136): the greatest length at which one of them agrees with `p`,
up to `maxMatch`, and the distance of the first that does; 3 and 0 where none agrees on 4 bytes. -/
inductive Longest (m : Memory) (p maxMatch : Nat) : List Nat → Nat → Int → Prop
  | none {seen : List Nat} (short : ∀ q ∈ seen, ¬Agree m q p 4) : Longest m p maxMatch seen 3 0
  | found {near far : List Nat} {q l : Nat} (min : 4 ≤ l) (max : l ≤ maxMatch) (agree : Agree m q p l)
      (stop : l < maxMatch → ¬Agree m q p (l + 1)) (shorter : ∀ r ∈ near, ¬Agree m r p l)
      (noLonger : ∀ r ∈ far, l < maxMatch → ¬Agree m r p (l + 1)) :
      Longest m p maxMatch (near ++ q :: far) l ((p : Int) - q)

section
variable {m : Memory} {p maxMatch best : Nat} {seen : List Nat} {dist : Int}

theorem Longest.three_le (h : Longest m p maxMatch seen best dist) : 3 ≤ best := by
  cases h <;> omega

theorem Longest.le (h : Longest m p maxMatch seen best dist) (h4 : 4 ≤ maxMatch) : best ≤ maxMatch := by
  cases h <;> omega

/-- No candidate seen agrees on more bytes. -/
theorem Longest.not_longer (h : Longest m p maxMatch seen best dist) (hlt : best < maxMatch) :
    ∀ q ∈ seen, ¬Agree m q p (best + 1) := by
  intro q hq ha
  cases h with
  | none short => exact short q hq ha
  | found min max agree stop shorter noLonger =>
    rcases List.mem_append.1 hq with hq | hq
    · exact shorter q hq (agree_mono ha (Nat.le_succ _))
    · rcases List.mem_cons.1 hq with rfl | hq
      · exact stop hlt ha
      · exact noLonger q hq hlt ha

/-- Candidates that are no longer change nothing. -/
theorem Longest.append (h : Longest m p maxMatch seen best dist) (h4 : 4 ≤ maxMatch) {more : List Nat}
    (hmore : ∀ q ∈ more, best < maxMatch → ¬Agree m q p (best + 1)) : Longest m p maxMatch (seen ++ more) best dist := by
  cases h with
  | none short => exact .none fun q hq => (List.mem_append.1 hq).elim (short q) fun hq => hmore q hq h4
  | found min max agree stop shorter noLonger =>
    rw [List.append_assoc, List.cons_append]
    exact .found min max agree stop shorter fun q hq => (List.mem_append.1 hq).elim (noLonger q) (hmore q)

/-- A longer candidate takes the place of the earlier ones. -/
theorem Longest.append_longer (h : Longest m p maxMatch seen best dist) {q l : Nat} (hlt : best < l) (hmax : l ≤ maxMatch)
    (agree : Agree m q p l) (stop : l < maxMatch → ¬Agree m q p (l + 1)) :
    Longest m p maxMatch (seen ++ [q]) l ((p : Int) - q) :=
  .found (h.three_le.trans_lt hlt) hmax agree stop
    (fun r hr ha => h.not_longer (hlt.trans_le hmax) r hr (agree_mono ha hlt)) (fun _ hr => nomatch hr)

end

/-- The extension loop stops at the first difference, or at `maxMatch` (R134). -/
theorem extend_agree {m : Memory} {q p maxMatch : Nat} : ∀ {fuel len : Nat}, len + fuel = maxMatch → Agree m q p len →
    len ≤ extend m q p maxMatch fuel len ∧ extend m q p maxMatch fuel len ≤ maxMatch ∧
      Agree m q p (extend m q p maxMatch fuel len) ∧
      (extend m q p maxMatch fuel len < maxMatch → ¬Agree m q p (extend m q p maxMatch fuel len + 1))
  | 0, len, hf, ha => ⟨le_rfl, by rw [extend]; omega, ha, fun hlt => by rw [extend] at hlt; omega⟩
  | fuel + 1, len, hf, ha => by
    rw [extend]
    split
    · next h =>
      obtain ⟨hle, hrest⟩ := extend_agree (maxMatch := maxMatch) (fuel := fuel) (len := len + 1) (by omega) (agree_succ.2 ⟨ha, h.2⟩)
      exact ⟨(Nat.le_succ len).trans hle, hrest⟩
    · next h =>
      exact ⟨le_rfl, by omega, ha, fun hlt hs => h ⟨hlt, (agree_succ.1 hs).2⟩⟩

/-- One candidate of FIND_MATCH: it is no longer than the best one so far, or it is recorded with its whole length (R134). -/
theorem visit_cases {m : Memory} {p maxMatch : Nat} {w : Walk} (h3 : 3 ≤ w.bestLen) (hlt : w.bestLen < maxMatch) :
    (¬Agree m w.s.toNat p (w.bestLen + 1) ∧ (visit m p maxMatch w).bestLen = w.bestLen ∧
      (visit m p maxMatch w).dist = w.dist) ∨
    (w.bestLen < (visit m p maxMatch w).bestLen ∧ (visit m p maxMatch w).bestLen ≤ maxMatch ∧
      Agree m w.s.toNat p (visit m p maxMatch w).bestLen ∧
      ((visit m p maxMatch w).bestLen < maxMatch → ¬Agree m w.s.toNat p ((visit m p maxMatch w).bestLen + 1)) ∧
      (visit m p maxMatch w).dist = (p : Int) - w.s) := by
  unfold visit
  dsimp only
  split
  · next h =>
    obtain ⟨-, hmax, hagree, hstop⟩ := extend_agree (maxMatch := maxMatch) (fuel := maxMatch - 4) (by omega) (sameBytes_iff.1 h.2)
    split
    · next hlonger => exact .inr ⟨hlonger, hmax, hagree, hstop, rfl⟩
    · next hle => exact .inl ⟨fun ha => hstop (by omega) (agree_mono ha (by omega)), rfl, rfl⟩
  · next h =>
    exact .inl ⟨fun ha => h ⟨(agree_succ.1 ha).2, sameBytes_iff.2 (agree_mono ha (by omega))⟩, rfl, rfl⟩

theorem visit_s (m : Memory) (p maxMatch : Nat) (w : Walk) : (visit m p maxMatch w).s = w.s := by
  unfold visit
  dsimp only
  split
  · split <;> rfl
  · rfl

theorem visit_longest {m : Memory} {p maxMatch : Nat} {w : Walk} {seen : List Nat} (h0 : 0 ≤ w.s)
    (h : Longest m p maxMatch seen w.bestLen w.dist) (h4 : 4 ≤ maxMatch) (hlt : w.bestLen < maxMatch) :
    Longest m p maxMatch (seen ++ [w.s.toNat]) (visit m p maxMatch w).bestLen (visit m p maxMatch w).dist := by
  rcases visit_cases (m := m) (p := p) h.three_le hlt with ⟨hshort, hbest, hdist⟩ | ⟨hlonger, hmax, hagree, hstop, hdist⟩
  · rw [hbest, hdist]
    exact h.append h4 fun q hq _ => List.mem_singleton.1 hq ▸ hshort
  · have := h.append_longer hlonger hmax hagree hstop
    rwa [Int.toNat_of_nonneg h0, ← hdist] at this

/-- FIND_MATCH's walk finds the longest match of its chain (R134, R136). -/
theorem findWalk_longest {m : Memory} {tail : Table} {p maxMatch : Nat} {limit : Int} (hl : -1 ≤ limit)
    (h4 : 4 ≤ maxMatch) : ∀ {n : Nat} {w : Walk} {seen : List Nat}, Longest m p maxMatch seen w.bestLen w.dist →
    w.bestLen < maxMatch → Longest m p maxMatch (seen ++ chainFrom tail limit n w.s)
      (findWalk m tail p maxMatch limit n w).bestLen (findWalk m tail p maxMatch limit n w).dist
  | 0, w, seen, h, _ => by rwa [chainFrom, List.append_nil]
  | n + 1, w, seen, h, hlt => by
    rw [chainFrom, findWalk]
    split
    · next hs =>
      have hv := visit_longest (by omega) h h4 hlt
      rw [List.append_cons]
      dsimp only
      split
      · next hend => exact hv.append h4 fun q _ hbest => absurd hend hbest.ne
      · next hend =>
        cases n with
        | zero => simpa [chainFrom] using hv
        | succ n =>
          rw [if_neg (Nat.succ_ne_zero n), visit_s]
          exact findWalk_longest (w := { visit m p maxMatch w with chain := n + 1, s := chainNext tail w.s }) hl h4 hv
            (lt_of_le_of_ne (hv.le h4) hend)
    · rwa [List.append_nil]

/-! ## The chain as the list of candidates (R32, R135) -/

/-- A candidate of a search at `x`, as far as hash and window go (R135). -/
def isCandidate (m : Memory) (x q : Nat) : Bool := decide (hashAt m q = hashAt m x) && decide (x < q + 131072)

/-- The candidates below `c`, nearest first, not cut to any budget. -/
def candidatesBelow (m : Memory) (x c : Nat) : List Nat := (List.range c).reverse.filter (isCandidate m x)

theorem candidates_eq (m : Memory) (p x budget : Nat) : candidates m p x budget = (candidatesBelow m x p).take budget := rfl

theorem mem_candidatesBelow {m : Memory} {x c q : Nat} :
    q ∈ candidatesBelow m x c ↔ q < c ∧ hashAt m q = hashAt m x ∧ x < q + 131072 := by
  simp [candidatesBelow, isCandidate]

/-- The nearest candidate stands first, the earlier ones behind it. -/
theorem candidatesBelow_eq_cons {m : Memory} {x c q : Nat} (hq : q ∈ candidatesBelow m x c)
    (hlast : ∀ r, r < c → hashAt m r = hashAt m x → r ≤ q) : candidatesBelow m x c = q :: candidatesBelow m x q := by
  obtain ⟨hc, hh, hw⟩ := mem_candidatesBelow.1 hq
  obtain ⟨k, rfl⟩ := Nat.exists_eq_add_of_lt hc
  have hnone : ((List.range k).map (q + 1 + ·)).reverse.filter (isCandidate m x) = [] := by
    rw [List.filter_eq_nil_iff]
    intro r hr hcand
    obtain ⟨j, hj, rfl⟩ := List.mem_map.1 (List.mem_reverse.1 hr)
    have := hlast (q + 1 + j) (by have := List.mem_range.1 hj; omega) (by simp_all [isCandidate])
    omega
  rw [candidatesBelow, show q + k + 1 = q + 1 + k by omega, List.range_add, List.reverse_append, List.filter_append, hnone,
    List.nil_append, List.range_succ, List.reverse_append, List.reverse_singleton, List.singleton_append,
    List.filter_cons_of_pos (by simp [isCandidate, hh, hw])]
  rfl

/-- `i` is the greatest position below `c` with the hash of `x`, or `NIL` where there is none: what R32 says of an entry. -/
structure Latest (m : Memory) (x c : Nat) (i : Int) : Prop where
  greatest : ∀ q, q < c → hashAt m q = hashAt m x → (q : Int) ≤ i
  is : i = -1 ∨ ∃ q, q < c ∧ hashAt m q = hashAt m x ∧ i = q

/-- Where every entry is the greatest earlier position with its hash, a walk visits the candidates (R135). -/
theorem chainFrom_eq_take {m : Memory} {tail : Table} {x p : Nat}
    (hnext : ∀ q ∈ candidatesBelow m x p, Latest m x q (chainNext tail q)) :
    ∀ {n c : Nat} {i : Int}, c ≤ p → Latest m x c i → chainFrom tail (windowLimit x) n i = (candidatesBelow m x c).take n
  | 0, c, i, _, _ => rfl
  | n + 1, c, i, hc, hi => by
    rw [chainFrom]
    split
    · next hs =>
      obtain ⟨q, hq, hh, rfl⟩ : ∃ q, q < c ∧ hashAt m q = hashAt m x ∧ i = q :=
        hi.is.resolve_left (by unfold windowLimit at hs; omega)
      have hw : x < q + 131072 := by unfold windowLimit at hs; omega
      rw [candidatesBelow_eq_cons (mem_candidatesBelow.2 ⟨hq, hh, hw⟩)
        (fun r hr hrh => Int.ofNat_le.1 (hi.greatest r hr hrh)), List.take_succ_cons, Int.toNat_natCast,
        chainFrom_eq_take hnext (hq.le.trans hc) (hnext q (mem_candidatesBelow.2 ⟨hq.trans_le hc, hh, hw⟩))]
    · next hs =>
      have hnone : candidatesBelow m x c = [] := List.eq_nil_iff_forall_not_mem.2 fun q hq => by
        obtain ⟨hq, hh, hw⟩ := mem_candidatesBelow.1 hq
        have := hi.greatest q hq hh
        unfold windowLimit at hs
        omega
      rw [hnone, List.take_nil]

/-- The candidates of one window are fewer than the budget of levels 8 and 9 (R139). -/
theorem candidatesBelow_length {m : Memory} {p x : Nat} (hx : p ≤ x) : (candidatesBelow m x p).length ≤ 131072 := by
  have hnodup : (candidatesBelow m x p).Nodup := (List.nodup_reverse.2 List.nodup_range).filter _
  have hsub : (candidatesBelow m x p).toFinset ⊆ Finset.Ico (x - 131071) p := fun q hq => by
    obtain ⟨hq, -, hw⟩ := mem_candidatesBelow.1 (List.mem_toFinset.1 hq)
    exact Finset.mem_Ico.2 ⟨by omega, hq⟩
  have := Finset.card_le_card hsub
  rw [List.toFinset_card_of_nodup hnodup, Nat.card_Ico] at this
  omega

/-! ## The tables under the table invariant (R32) -/

section
variable {tail0 : Table} {s : State} (hi : TableInvariant tail0 s) (hp : s.pN ≤ 2147483648)

include hi hp

theorem headLatest {x : Nat} {h : BitVec 18} (hx : hashAt s.inMem x = some h) :
    Latest s.inMem x s.pN (s.head.get h.toNat).toInt where
  greatest q hq hh := hi.headGreatest h q hq (hh.trans hx)
  is := by
    rcases hi.headIs h with hnil | ⟨q, hq, hh, hget⟩
    · exact .inl (by rw [hnil]; decide)
    · exact .inr ⟨q, hq, hh.trans hx.symm, by rw [hget, toInt_ofNat_of_lt (by omega)]⟩

theorem tailLatest {x q : Nat} (hx : s.pN ≤ x) (hq : q ∈ candidatesBelow s.inMem x s.pN) :
    Latest s.inMem x q (chainNext s.tail q) := by
  obtain ⟨hlt, hh, hw⟩ := mem_candidatesBelow.1 hq
  refine ⟨fun r hr hrh => hi.tailGreatest q r hlt (by omega) hr (hrh.trans hh.symm), ?_⟩
  rw [chainNext, Int.toNat_natCast]
  rcases hi.tailIs q hlt (by omega) with hnil | ⟨r, hr, hrh, hget⟩
  · exact .inl (by rw [hnil]; decide)
  · exact .inr ⟨r, hr, hrh.trans hh, by rw [hget, toInt_ofNat_of_lt (by omega)]⟩

/-- A walk from the head of the chain of `x` visits the candidates of `x` (R135). -/
theorem chainFrom_head {x : Nat} {h : BitVec 18} (hx : s.pN ≤ x) (hh : hashAt s.inMem x = some h) (budget : Nat) :
    chainFrom s.tail (windowLimit x) budget (s.head.get h.toNat).toInt = candidates s.inMem s.pN x budget :=
  chainFrom_eq_take (fun _ => tailLatest hi hp hx) le_rfl (headLatest hi hp hh)

/-! ## FIND_MATCH and PROBE -/

/-- The result of a FIND_MATCH that ended its walk with these registers (R134). -/
def walkFound (best : Nat) (dist : Int) : Found :=
  if 4 ≤ best then .found best (Word.ofInt dist).toNat else .noMatch

/-- FIND_MATCH at the Encoder's position answers the longest match of its candidates (R136). -/
theorem findMatchOp_longest {r : Found} {t : State} (h : findMatchOp s.pN s = .ok (r, t)) :
    (s.inN - s.pN < 4 ∧ r = .noMatch) ∨
    (4 ≤ s.inN - s.pN ∧ ∃ best dist, r = walkFound best dist ∧
      Longest s.inMem s.pN (s.inN - s.pN) (candidates s.inMem s.pN s.pN (maxChain s.level)) best dist) := by
  unfold findMatchOp at h
  split at h
  · cases h
  · split at h
    · next hshort => cases h; exact .inl ⟨hshort, rfl⟩
    · next hlong =>
      split at h
      · cases h
      · next k hk =>
        have h4 : 4 ≤ s.inN - s.pN := Nat.le_of_not_lt hlong
        have hwalk := findWalk_longest (m := s.inMem) (tail := s.tail) (p := s.pN) (limit := windowLimit s.pN)
          (n := maxChain s.level) (le_max_right _ _) h4
          (w := ⟨(s.head.get k.toNat).toInt, maxChain s.level, 3, 0, (State.freeMatchRegs s.draws).len.toNat⟩)
          (seen := []) (.none fun _ hq => nomatch hq) h4
        rw [List.nil_append, chainFrom_head hi hp le_rfl hk] at hwalk
        refine .inr ⟨h4, _, _, ?_, hwalk⟩
        dsimp only at h
        unfold walkFound
        split at h <;> cases h
        · next hfound => rw [if_pos hfound]
        · next hnone => rw [if_neg hnone]

end

/-- PROBE at or behind the Encoder's position asks whether a candidate agrees (R139). -/
theorem probeOp_iff {tail0 : Table} {s t : State} {x n : Nat} {b : Bool} (hi : TableInvariant tail0 s)
    (hN : s.inN ≤ 2147483648) (hx : s.pN ≤ x) (h : probeOp x n s = .ok (b, t)) :
    b = true ↔ x + n ≤ s.inN ∧ ∃ q ∈ candidates s.inMem s.pN x (maxChain s.level), Agree s.inMem q x n := by
  unfold probeOp at h
  split at h
  · next hlong =>
    cases h
    simp [Nat.not_le.2 hlong]
  · next hfits =>
    split at h
    · cases h
    · next k hk =>
      cases h
      rw [probeWalk_iff, chainFrom_head hi (by omega) hx hk, and_iff_right (Nat.le_of_not_lt hfits)]

end Sys2Proof.Proofs

/-! SUPPORT. FIND_MATCH and PROBE as instructions: they complete where IN and its pad were lent, and answer what R136 and R139
say. -/

namespace Sys2Proof.Proofs

open Sys2Proof.Machine Sys2Proof.Safety

/-! ## Searches complete -/

theorem findMatchOp_completes {p : Nat} {s : State} (hc : s.inMem.covers (s.inN + 16) = true) (hp : p < s.inN) :
    ∃ r t, findMatchOp p s = .ok (r, t) := by
  obtain ⟨h, hh⟩ := hashAt_isSome hc (show p + 4 ≤ s.inN + 16 by omega)
  unfold findMatchOp
  rw [if_neg (by omega)]
  split
  · exact ⟨_, _, rfl⟩
  · rw [hh]
    dsimp only
    split <;> exact ⟨_, _, rfl⟩

theorem probeOp_completes {x n : Nat} {s : State} (hc : s.inMem.covers (s.inN + 16) = true) :
    ∃ b t, probeOp x n s = .ok (b, t) := by
  unfold probeOp
  split
  · exact ⟨_, _, rfl⟩
  · obtain ⟨h, hh⟩ := hashAt_isSome hc (show x + 4 ≤ s.inN + 16 by omega)
    rw [hh]
    exact ⟨_, _, rfl⟩

/-- What FIND_MATCH returns when it is run by `exec`. -/
def foundRet : Found → Ret
  | .noMatch => .noMatch
  | .found l d => .found l d

theorem exec_findMatch {p : Nat} {s t : State} {r : Found} (h : findMatchOp p s = .ok (r, t)) :
    exec (.findMatch p) s = .next (t.withRet (foundRet r)) := by
  rw [exec, execFindMatch, h]
  cases r <;> rfl

theorem exec_probe {x n : Nat} {s t : State} {b : Bool} (h : probeOp x n s = .ok (b, t)) :
    exec (.probe x n) s = .next (t.withRet (.truth b)) := by
  rw [exec, execProbe, h]
  rfl

/-- A search writes the Match Finder's registers alone, and its result is returned. -/
theorem sameBut_endSearch_withRet (s : State) (m : MatchRegs) (v : Ret) :
    SameBut [.mf, .ret, .draws] s ((s.endSearch m).withRet v) :=
  ((sameBut_withMf_withDraws s m _).mono (by decide)).trans ((sameBut_withRet _ v).mono (by decide))

/-! ## The statements -/

/-- The distance register holds an in-window distance exactly (R134). -/
theorem toNat_ofInt_sub {p q : Nat} (hq : q ≤ p) (hp : p < 4294967296) : (Word.ofInt ((p : Int) - q)).toNat = p - q := by
  rw [← Nat.cast_sub hq, Word.ofInt, BitVec.ofInt_natCast, BitVec.toNat_ofNat]
  omega

/-- Settles O19: the walk visits the candidates and holds the longest match among those it has seen. -/
theorem findMatchNearestLongest : Obligations.FindMatchNearestLongest := by
  intro tail0 s _ ho hc hi hp
  have hN := ho.inLen_le
  obtain ⟨r, t, h⟩ := findMatchOp_completes hc hp
  obtain ⟨-, m, rfl⟩ := findMatchOp_ok h
  refine ⟨_, exec_findMatch h, sameBut_endSearch_withRet s m _, ?_⟩
  rcases findMatchOp_longest hi (by omega) h with ⟨hshort, rfl⟩ | ⟨-, best, dist, rfl, hlongest⟩
  · exact .inl ⟨rfl, .inl hshort⟩
  · generalize hcands : candidates s.inMem s.pN s.pN (maxChain s.level) = cands at hlongest
    cases hlongest with
    | none short => exact .inl ⟨rfl, .inr short⟩
    | found min max agree stop shorter noLonger =>
      rename_i near far q
      obtain ⟨hq, -, hw⟩ := mem_candidatesBelow.1 (List.mem_of_mem_take (hcands ▸ List.mem_append_right near List.mem_cons_self))
      refine .inr ⟨best, s.pN - q, near, q, far, ?_, rfl, rfl, min, max, by omega, by omega, by omega, agree, stop, shorter,
        noLonger⟩
      rw [walkFound, if_pos min, toNat_ofInt_sub hq.le s.enc.p.isLt]
      rfl

/-- The budget of levels 8 and 9 holds every candidate of a window (R42, R139). -/
theorem mem_candidates_of_deep {m : Memory} {p x q : Nat} {level : BitVec 4} (hl : 8 ≤ level.toNat) (hx : p ≤ x) :
    q ∈ candidates m p x (maxChain level) ↔ q < p ∧ hashAt m q = hashAt m x ∧ x < q + 131072 := by
  rw [candidates_eq, Machine.maxChain, if_neg (by omega), List.take_of_length_le (candidatesBelow_length hx), mem_candidatesBelow]

/-- Settles O20: the walk visits the candidates, and equal bytes have equal hashes. -/
theorem probeFindsRepetition : Obligations.ProbeFindsRepetition := by
  intro tail0 s x n _ ho hc hi hlt _ h5
  obtain ⟨b, t, h⟩ := probeOp_completes (x := x) (n := n) hc
  obtain ⟨m, rfl, hbest, hdist⟩ := probeOp_ok h
  have hN := ho.inLen_le
  have hiff := probeOp_iff hi (by omega) hlt.le h
  refine ⟨_, b, exec_probe h, rfl, sameBut_endSearch_withRet s m _, hbest, hdist, hiff, fun hl => hiff.trans ?_⟩
  refine and_congr_right fun _ => exists_congr fun q => ?_
  rw [mem_candidates_of_deep hl hlt.le]
  exact ⟨fun ⟨⟨hq, _, hw⟩, ha⟩ => ⟨hq, hw, ha⟩, fun ⟨hq, hw, ha⟩ => ⟨⟨hq, hashAt_eq_of_agree ha (by omega), hw⟩, ha⟩⟩

end Sys2Proof.Proofs

/-! SUPPORT. Two runs of COMPRESS on the same input at the same level, side by side (R140, R273): every part of a DECIDE decides and
writes the same in both, whatever the pads, the tables, the old contents of OUT and the free values are. -/

namespace Sys2Proof.Proofs

open Sys2Proof.Machine Sys2Proof.Safety

/-! ## Bytes written alike -/

/-- A byte of a slice. -/
theorem byte?_of_slice {m : Memory} : ∀ {n a k : Nat} {bs : List Byte}, m.slice a n = some bs → k < n →
    m.byte? (a + k) = bs[k]?
  | n + 1, a, k, bs, h, hk => by
    rw [Memory.slice] at h
    split at h
    · next b bs hb hbs =>
      cases h
      cases k with
      | zero => exact hb
      | succ k =>
        rw [List.getElem?_cons_succ, ← byte?_of_slice hbs (Nat.lt_of_succ_lt_succ hk)]
        congr 1
        omega
    · cases h

/-- A byte of a stored run of bytes. -/
theorem byte?_setBytes?_inside {m m' : Memory} {a k : Nat} {bs : List Byte} (h : m.setBytes? a bs = some m')
    (hk : k < bs.length) : m'.byte? (a + k) = bs[k]? :=
  byte?_of_slice (Memory.slice_setBytes? h) hk

/-- A byte copied from IN (R205). -/
theorem copyLoop_input_byte? {inM : Memory} : ∀ {n d s k : Nat} {out out' : Memory},
    copyLoop inM .input n d s out = .ok out' → k < n → out'.byte? (d + k) = inM.byte? (s + k)
  | n + 1, d, s, k, out, out', h, hk => by
    rw [copyLoop] at h
    split at h
    · cases h
    · next b hb =>
      split at h
      · cases h
      · next o ho =>
        cases k with
        | zero =>
          rw [Nat.add_zero, copyLoop_outside h (.inl (Nat.lt_succ_self d)), Memory.byte?_set?_self ho]
          exact hb.symm
        | succ k =>
          have := copyLoop_input_byte? h (Nat.lt_of_succ_lt_succ hk)
          rwa [Nat.add_assoc, Nat.add_assoc, Nat.add_comm 1 k] at this

/-! ## Two runs side by side -/

/-- Two runs have read the same input at the same level, stand at the same place of it, and have written the same stream. -/
structure Twin (s s' : State) : Prop where
  inLen : s.inLen = s'.inLen
  level : s.level = s'.level
  input : SameInput s s' s.inN
  enc : s.enc = s'.enc
  run : s.runN ≤ s.pN
  pos : s.pN ≤ s.inN
  out : ∀ a, a < s.encOp → s.outMem.byte? a = s'.outMem.byte? a

/-- The parts of the state that may differ between the two runs. -/
def freeParts : List Part := [.head, .tail, .mf, .status, .result, .draws]

section
variable {s s' t t' u u' : State}

theorem Twin.inN_eq (h : Twin s s') : s'.inN = s.inN := congrArg BitVec.toNat h.inLen.symm
theorem Twin.pN_eq (h : Twin s s') : s'.pN = s.pN := congrArg (·.p.toNat) h.enc.symm
theorem Twin.runN_eq (h : Twin s s') : s'.runN = s.runN := congrArg (·.run.toNat) h.enc.symm
theorem Twin.encOp_eq (h : Twin s s') : s'.encOp = s.encOp := congrArg (·.op.toNat) h.enc.symm

theorem Twin.of_frames (h : Twin s s') (f : SameBut freeParts s t) (f' : SameBut freeParts s' t') : Twin t t' := by
  have he : t.enc = s.enc := f .enc (by decide)
  have hi : t.inLen = s.inLen := f .inLen (by decide)
  have hl : t.level = s.level := f .level (by decide)
  have hm : t.inMem = s.inMem := f .inMem (by decide)
  have ho : t.outMem = s.outMem := f .outMem (by decide)
  have hm' : t'.inMem = s'.inMem := f' .inMem (by decide)
  have ho' : t'.outMem = s'.outMem := f' .outMem (by decide)
  constructor
  · exact (hi.trans h.inLen).trans (f' .inLen (by decide)).symm
  · exact (hl.trans h.level).trans (f' .level (by decide)).symm
  · rw [SameInput, State.inN, hi, hm, hm']; exact h.input
  · exact (he.trans h.enc).trans (f' .enc (by decide)).symm
  · rw [State.runN, State.pN, he]; exact h.run
  · rw [State.pN, State.inN, he, hi]; exact h.pos
  · rw [State.encOp, he, ho, ho']; exact h.out

/-- Both runs write `n` bytes at `op` and move it behind them: the stream stays the same. -/
theorem Twin.write (h : Twin s s') (f : SameBut [.outMem, .draws] s t) (f' : SameBut [.outMem, .draws] s' t') {n : Nat}
    (hout : ∀ a, a < s.encOp + n → t.outMem.byte? a = t'.outMem.byte? a) :
    Twin (t.setEncOp (s.encOp + n)) (t'.setEncOp (s'.encOp + n)) := by
  have he : t.enc = s.enc := f .enc (by decide)
  have he' : t'.enc = s'.enc := f' .enc (by decide)
  have hi : t.inLen = s.inLen := f .inLen (by decide)
  have hl : t.level = s.level := f .level (by decide)
  have hm : t.inMem = s.inMem := f .inMem (by decide)
  have hm' : t'.inMem = s'.inMem := f' .inMem (by decide)
  constructor
  · exact (hi.trans h.inLen).trans (f' .inLen (by decide)).symm
  · exact (hl.trans h.level).trans (f' .level (by decide)).symm
  · simp only [SameInput, State.inN, State.setEncOp_inLen, State.setEncOp_inMem, hi, hm, hm']; exact h.input
  · simp only [State.setEncOp_enc, he, he', State.encOp, h.enc]
  · simp only [State.runN, State.pN, State.setEncOp_enc, he]; exact h.run
  · simp only [State.pN, State.inN, State.setEncOp_enc, State.setEncOp_inLen, he, hi]; exact h.pos
  · exact fun a ha => hout a (ha.trans_le (ofNat_toNat_le _))

theorem putBytes_twin {bs : List Byte} (h : Twin s s') (ht : putBytes bs s = .ok t) (ht' : putBytes bs s' = .ok t') :
    Twin t t' := by
  obtain ⟨out, ho, rfl⟩ := putBytes_ok ht
  obtain ⟨out', ho', rfl⟩ := putBytes_ok ht'
  refine h.write ((sameBut_withOut s out).mono (by decide)) ((sameBut_withOut s' out').mono (by decide)) fun a ha => ?_
  rw [h.encOp_eq] at ho'
  show out.byte? a = out'.byte? a
  by_cases hlt : a < s.encOp
  · rw [Memory.byte?_setBytes?_outside ho (.inl hlt), Memory.byte?_setBytes?_outside ho' (.inl hlt), h.out a hlt]
  · obtain ⟨k, rfl⟩ := Nat.exists_eq_add_of_le (Nat.le_of_not_lt hlt)
    rw [byte?_setBytes?_inside ho (by omega), byte?_setBytes?_inside ho' (by omega)]

/-- The pending literals are input bytes, and their overrun lies behind `op` (R165, R205). -/
theorem literalCopy_twin (h : Twin s s') (ht : literalCopy s = .ok t) (ht' : literalCopy s' = .ok t') : Twin t t' := by
  obtain ⟨u, hu, ht⟩ := phases_ok (literalCopy_eq s ▸ ht)
  obtain ⟨u', hu', ht'⟩ := phases_ok (literalCopy_eq s' ▸ ht')
  obtain ⟨out, ho, rfl⟩ := wildcopyOp_ok hu
  obtain ⟨out', ho', rfl⟩ := wildcopyOp_ok hu'
  cases ht
  cases ht'
  rw [h.runN_eq] at ho' ⊢
  refine h.write (((sameBut_withOut s out).mono (by decide)).trans (sameBut_clobber _ _ _))
    (((sameBut_withOut s' out').mono (by decide)).trans (sameBut_clobber _ _ _)) fun a ha => ?_
  rw [h.encOp_eq, h.pN_eq] at ho'
  have hrp := h.run
  have hpos := h.pos
  simp only [State.clobber_outMem, State.withOut_outMem, h.encOp_eq]
  rw [Memory.byte?_scramble_outside (.inl ha), Memory.byte?_scramble_outside (.inl ha)]
  by_cases hlt : a < s.encOp
  · rw [copyLoop_outside ho (.inl hlt), copyLoop_outside ho' (.inl hlt), h.out a hlt]
  · obtain ⟨k, rfl⟩ := Nat.exists_eq_add_of_le (Nat.le_of_not_lt hlt)
    rw [copyLoop_input_byte? ho (by omega), copyLoop_input_byte? ho' (by omega), h.input _ (by omega)]

theorem emitvarOr_twin {b : Prop} [Decidable b] {x : Nat} (h : Twin s s')
    (ht : (if b then emitvarOp x s else .ok s) = .ok t) (ht' : (if b then emitvarOp x s' else .ok s') = .ok t') :
    Twin t t' := by
  split at ht
  · next hb => rw [if_pos hb] at ht'; exact putBytes_twin h ht ht'
  · next hb => rw [if_neg hb] at ht'; cases ht; cases ht'; exact h

theorem emitHead_twin {hi code : Nat} (h : Twin s s') (ht : emitHead hi code s = .ok t)
    (ht' : emitHead hi code s' = .ok t') : Twin t t' := by
  rw [emitHead_eq] at ht ht'
  rw [h.runN_eq] at ht'
  split at ht
  · next h0 =>
    rw [if_pos h0] at ht'
    exact putBytes_twin h ht ht'
  · next h0 =>
    rw [if_neg h0] at ht'
    obtain ⟨u, hu, ht⟩ := phases_ok ht
    obtain ⟨u', hu', ht'⟩ := phases_ok ht'
    obtain ⟨v, hv, ht⟩ := phases_ok ht
    obtain ⟨v', hv', ht'⟩ := phases_ok ht'
    exact literalCopy_twin (emitvarOr_twin (putBytes_twin h hu hu') hv hv') ht ht'

theorem emitFinalOp_twin (h : Twin s s') (ht : emitFinalOp s = .ok t) (ht' : emitFinalOp s' = .ok t') : Twin t t' := by
  unfold emitFinalOp at ht ht'
  rw [h.runN_eq, h.pN_eq] at ht'
  split at ht
  · next h0 => rw [if_pos h0] at ht'; cases ht; cases ht'; exact h
  · next h0 =>
    rw [if_neg h0] at ht'
    rw [if_neg (by have := h.run; omega)] at ht ht'
    exact emitHead_twin h ht ht'

/-! ## The decision (R162) -/

/-- The two runs hold the same match besides. -/
structure TwinMatch (s s' : State) : Prop where
  twin : Twin s s'
  best : s.mf.bestLen = s'.mf.bestLen
  dist : s.mf.dist = s'.mf.dist

theorem emitMatchOp_twin (h : TwinMatch s s') (ht : emitMatchOp s = .ok t) (ht' : emitMatchOp s' = .ok t') :
    Twin t t' := by
  rw [emitMatchOp_eq] at ht ht'
  rw [State.bestN, State.distN, ← h.best, ← h.dist] at ht'
  split at ht
  · cases ht
  · split at ht'
    · cases ht'
    · obtain ⟨u, hu, ht⟩ := phases_ok ht
      obtain ⟨u', hu', ht'⟩ := phases_ok ht'
      obtain ⟨v, hv, ht⟩ := phases_ok ht
      obtain ⟨v', hv', ht'⟩ := phases_ok ht'
      exact putBytes_twin (emitvarOr_twin (emitHead_twin h.twin hu hu') hv hv') ht ht'

/-- Both runs insert inside the input, then move `p` and leave `run` pending literals before it. -/
theorem Twin.move (h : Twin s s') (f : SameBut freeParts s t) (f' : SameBut freeParts s' t') {p run : Nat}
    (hrun : run ≤ p) (hpos : p ≤ s.inN) : Twin ((t.setP p).setRun run) ((t'.setP p).setRun run) := by
  obtain ⟨inLen, level, input, henc, -, -, out⟩ := h.of_frames f f'
  have hi : t.inN = s.inN := congrArg BitVec.toNat (f .inLen (by decide))
  have hp : (Word.ofNat p).toNat = p := ofNat_toNat_of_lt (hpos.trans_lt (inN_lt s))
  refine ⟨inLen, level, input, ?_, ?_, (hp.trans_le hpos).trans hi.ge, out⟩
  · simp only [State.setRun_enc, State.setP_enc, henc]
  · exact ((ofNat_toNat_le run).trans hrun).trans hp.ge

theorem acceptOp_twin (h : TwinMatch s s') (ht : acceptOp s = .ok t) (ht' : acceptOp s' = .ok t') : Twin t t' := by
  obtain ⟨v, hv, ht⟩ := phases_ok (acceptOp_eq s ▸ ht)
  obtain ⟨v', hv', ht'⟩ := phases_ok (acceptOp_eq s' ▸ ht')
  obtain ⟨f, hin⟩ := insertRange_frame h.twin.pos hv
  obtain ⟨f', -⟩ := insertRange_frame (h.twin.pN_eq ▸ h.twin.inN_eq ▸ h.twin.pos) hv'
  rw [h.twin.pN_eq, State.bestN, ← h.best] at ht'
  cases ht
  cases ht'
  exact h.twin.move (f.mono (by decide)) (f'.mono (by decide)) (Nat.zero_le _) hin

theorem literalOp_twin (h : Twin s s') (ht : literalOp s = .ok t) (ht' : literalOp s' = .ok t') : Twin t t' := by
  obtain ⟨v, hv, ht⟩ := phases_ok (literalOp_eq s ▸ ht)
  obtain ⟨v', hv', ht'⟩ := phases_ok (literalOp_eq s' ▸ ht')
  obtain ⟨hin, -⟩ := insertOp_ok hv
  rw [h.pN_eq, h.runN_eq] at ht'
  cases ht
  cases ht'
  exact h.move ((insertOp_frame hv).mono (by decide)) ((insertOp_frame hv').mono (by decide)) (Nat.succ_le_succ h.run) hin

theorem commitOp_twin (h : TwinMatch s s') (ht : commitOp s = .ok t) (ht' : commitOp s' = .ok t') : Twin t t' := by
  rw [commitOp_eq] at ht ht'
  rw [show matchSurvives s' = matchSurvives s by rw [matchSurvives, State.bestN, ← h.best]; rfl] at ht'
  split at ht
  · next hs =>
    rw [if_pos hs] at ht'
    obtain ⟨u, hu, ht⟩ := phases_ok ht
    obtain ⟨u', hu', ht'⟩ := phases_ok ht'
    have hm : u.mf = s.mf := (emitMatchOp_emits hu).frame .mf (by decide)
    have hm' : u'.mf = s'.mf := (emitMatchOp_emits hu').frame .mf (by decide)
    exact acceptOp_twin ⟨emitMatchOp_twin h hu hu', by rw [hm, hm', h.best], by rw [hm, hm', h.dist]⟩ ht ht'
  · next hs =>
    rw [if_neg hs] at ht'
    exact literalOp_twin h.twin ht ht'

end

end Sys2Proof.Proofs

/-! SUPPORT. Two runs of COMPRESS side by side: their searches find the same match, so their DECIDEs keep them together, and they
end with the same stream (R140, R172). -/

namespace Sys2Proof.Proofs

open Sys2Proof.Machine Sys2Proof.Safety

/-! ## The longest match is determined by the candidates and the compared bytes -/

theorem Longest.congr {m m' : Memory} {p maxMatch best : Nat} {seen : List Nat} {dist : Int}
    (h : Longest m p maxMatch seen best dist) (h4 : 4 ≤ maxMatch)
    (hm : ∀ q ∈ seen, ∀ k, k ≤ maxMatch → (Agree m q p k ↔ Agree m' q p k)) : Longest m' p maxMatch seen best dist := by
  cases h with
  | none short => exact .none fun q hq => mt (hm q hq 4 h4).2 (short q hq)
  | found min max agree stop shorter noLonger =>
    rename_i near far q
    have hq : q ∈ near ++ q :: far := List.mem_append_right near List.mem_cons_self
    exact .found min max ((hm q hq best max).1 agree) (fun hlt => mt (hm q hq _ hlt).2 (stop hlt))
      (fun r hr => mt (hm r (List.mem_append_left _ hr) best max).2 (shorter r hr))
      (fun r hr hlt => mt (hm r (List.mem_append_right near (List.mem_cons_of_mem q hr)) _ hlt).2 (noLonger r hr hlt))

section
variable {m : Memory} {p maxMatch best best' : Nat} {seen : List Nat} {dist dist' : Int}

theorem Longest.best_le (h : Longest m p maxMatch seen best dist) (h' : Longest m p maxMatch seen best' dist')
    (h4 : 4 ≤ maxMatch) : best' ≤ best := by
  by_contra hlt
  have hle := h'.le h4
  cases h' with
  | none => exact hlt h.three_le
  | found min max agree =>
    exact h.not_longer (by omega) _ (List.mem_append_right _ List.mem_cons_self) (agree_mono agree (by omega))

/-- The match is at the first candidate that agrees on its length. -/
theorem Longest.dist_eq (h : Longest m p maxMatch seen best dist) :
    dist = (seen.find? fun q => decide (4 ≤ best) && sameBytes m q p best).elim 0 fun q : Nat => (p : Int) - q := by
  cases h with
  | none => rw [List.find?_eq_none.2 (by simp)]; rfl
  | found min max agree stop shorter noLonger =>
    rename_i near far q
    have hnear : near.find? (fun q => decide (4 ≤ best) && sameBytes m q p best) = Option.none :=
      List.find?_eq_none.2 fun r hr hs => shorter r hr (sameBytes_iff.1 (Bool.and_eq_true_iff.1 hs).2)
    rw [List.find?_append, hnear, Option.none_or, List.find?_cons_of_pos (by simp [min, sameBytes_iff.2 agree])]
    rfl

theorem Longest.unique (h : Longest m p maxMatch seen best dist) (h' : Longest m p maxMatch seen best' dist')
    (h4 : 4 ≤ maxMatch) : best = best' ∧ dist = dist' := by
  obtain rfl : best = best' := le_antisymm (h'.best_le h h4) (h.best_le h' h4)
  exact ⟨rfl, h.dist_eq.trans h'.dist_eq.symm⟩

end

/-! ## Candidates depend on the input alone -/

section
variable {m m' : Memory} {n : Nat} (hm : ∀ a, a < n → m.byte? a = m'.byte? a)
include hm

theorem agree_congr_input {q p k : Nat} (hq : q + k ≤ n) (hp : p + k ≤ n) : Agree m q p k ↔ Agree m' q p k :=
  agree_congr (fun _ _ => hm _ (by omega)) (fun _ _ => hm _ (by omega))

/-- Where a search at `x` is possible, the candidates behind it are hashed without the pad (R62, R140). -/
theorem candidates_congr_input {p x budget : Nat} (hp : p ≤ x) (hx : x + 4 ≤ n) :
    candidates m p x budget = candidates m' p x budget := by
  have hhash : ∀ q, q ≤ x → hashAt m q = hashAt m' q := fun q hq => hashAt_congr fun k hk => hm (q + k) (by omega)
  refine congrArg (List.take budget) (List.filter_congr fun q hq => ?_)
  have hq : q < p := List.mem_range.1 (List.mem_reverse.1 hq)
  rw [hhash q (by omega), hhash x le_rfl]

end

/-! ## The searches of both runs -/

/-- What a search needs besides: tables that hold the inserted positions (R32). -/
structure SearchReady (s : State) : Prop where
  inLen_le : s.inN ≤ 2147483648
  tables : ∃ tail0, TableInvariant tail0 s

/-- The bytes at `x` are found again: what PROBE(x, n) asks (R139). -/
def Repeats (s : State) (x n : Nat) : Prop :=
  x + n ≤ s.inN ∧ ∃ q ∈ candidates s.inMem s.pN x (maxChain s.level), Agree s.inMem q x n

section
variable {s s' t t' : State}

theorem SearchReady.of_frame (h : SearchReady s) (f : SameBut [.mf, .draws] s t) : SearchReady t := by
  obtain ⟨hN, tail0, hi⟩ := h
  have henc : t.enc = s.enc := f .enc (by decide)
  refine ⟨?_, tail0, tableInvariant_congr hi (f .head (by decide)) (f .tail (by decide)) (congrArg (·.p.toNat) henc)
    (f .inMem (by decide))⟩
  rw [State.inN, f .inLen (by decide)]
  exact hN

theorem Repeats.congr (h : Twin s s') {x n : Nat} (hx : s.pN ≤ x) (hn : 4 ≤ n) : Repeats s x n ↔ Repeats s' x n := by
  unfold Repeats
  rw [h.inN_eq, h.pN_eq, ← h.level]
  refine and_congr_right fun hfit => ?_
  rw [candidates_congr_input h.input hx (by omega)]
  refine exists_congr fun q => and_congr_right fun hq => ?_
  have := mem_candidatesBelow.1 (List.mem_of_mem_take hq)
  exact agree_congr_input h.input (by omega) hfit

theorem probeOp_iff_repeats (hr : SearchReady s) {x n : Nat} {b : Bool} (hx : s.pN ≤ x) (h : probeOp x n s = .ok (b, t)) :
    b = true ↔ Repeats s x n := by
  obtain ⟨hN, tail0, hi⟩ := hr
  exact probeOp_iff hi hN hx h

/-- FIND_MATCH finds the same in both runs. -/
theorem findMatchOp_twin (h : Twin s s') (hr : SearchReady s) (hr' : SearchReady s') {r r' : Found}
    (ht : findMatchOp s.pN s = .ok (r, t)) (ht' : findMatchOp s'.pN s' = .ok (r', t')) : r = r' := by
  obtain ⟨hN, tail0, hi⟩ := hr
  obtain ⟨hN', tail0', hi'⟩ := hr'
  have hpos := h.pos
  have hpos' := h.pN_eq.trans_le (hpos.trans h.inN_eq.ge)
  have hfound := findMatchOp_longest hi (by omega) ht
  have hfound' := findMatchOp_longest hi' (by omega) ht'
  rw [h.inN_eq, h.pN_eq, ← h.level] at hfound'
  rcases hfound with ⟨hshort, rfl⟩ | ⟨h4, best, dist, rfl, hl⟩
  · rcases hfound' with ⟨-, rfl⟩ | ⟨h4, -⟩
    · rfl
    · omega
  · rcases hfound' with ⟨hshort, -⟩ | ⟨-, best', dist', rfl, hl'⟩
    · omega
    · rw [← candidates_congr_input h.input le_rfl (by omega)] at hl'
      have hsame := hl.congr h4 fun q hq k hk => by
        have := mem_candidatesBelow.1 (List.mem_of_mem_take hq)
        exact agree_congr_input h.input (by omega) (by omega)
      obtain ⟨rfl, rfl⟩ := hsame.unique hl' h4
      rfl

/-- `best_len` and `dist` as DECIDE takes them from a search (R162). -/
def foundMatch : Found → Word × Word
  | .noMatch => (0, 0)
  | .found l d => (Word.ofNat l, Word.ofNat d)

theorem searchOp_result (h : searchOp s = .ok t) : ∃ r u, findMatchOp s.pN s = .ok (r, u) ∧
    SameBut [.mf, .draws] s t ∧ (t.mf.bestLen, t.mf.dist) = foundMatch r := by
  unfold searchOp at h
  split at h
  · cases h
  all_goals
    next u hu =>
      cases h
      obtain ⟨-, m, rfl⟩ := findMatchOp_ok hu
      exact ⟨_, _, hu, sameBut_withMf_withDraws s _ _, rfl⟩

theorem searchOp_twin (h : Twin s s') (hr : SearchReady s) (hr' : SearchReady s') (ht : searchOp s = .ok t)
    (ht' : searchOp s' = .ok t') : TwinMatch t t' := by
  obtain ⟨r, u, hu, f, hmatch⟩ := searchOp_result ht
  obtain ⟨r', u', hu', f', hmatch'⟩ := searchOp_result ht'
  obtain rfl := findMatchOp_twin h hr hr' hu hu'
  obtain ⟨hbest, hdist⟩ := Prod.mk.inj (hmatch.trans hmatch'.symm)
  exact ⟨h.of_frames (f.mono (by decide)) (f'.mono (by decide)), hbest, hdist⟩

theorem suppressOp_frame (s : State) : SameBut [.mf, .draws] s (suppressOp s) := by
  rcases suppressOp_cases s with ⟨-, -, h⟩ | ⟨-, h⟩ <;> rw [h]
  · exact sameBut_withMf_withDraws s { s.mf with bestLen := Word.ofNat 0 } s.draws
  · exact SameBut.refl _ s

theorem suppressOp_twin (h : TwinMatch s s') : TwinMatch (suppressOp s) (suppressOp s') := by
  have hsame : (s'.bestN = 4 ∧ 135 ≤ s'.runN) ↔ s.bestN = 4 ∧ 135 ≤ s.runN := by
    rw [h.twin.runN_eq, State.bestN, ← h.best]
  have htwin := h.twin.of_frames ((suppressOp_frame s).mono (by decide)) ((suppressOp_frame s').mono (by decide))
  rcases suppressOp_cases s with ⟨h4, h135, he⟩ | ⟨hno, he⟩
  · have he' : suppressOp s' = s'.setBest 0 :=
      (suppressOp_cases s').elim (·.2.2) fun hno' => absurd (hsame.2 ⟨h4, h135⟩) hno'.1
    rw [he, he'] at htwin ⊢
    exact ⟨htwin, rfl, h.dist⟩
  · have he' : suppressOp s' = s' :=
      (suppressOp_cases s').elim (fun hyes => absurd (hsame.1 ⟨hyes.1, hyes.2.1⟩) hno) (·.2)
    rwa [he, he']

/-- LAZY gives the match up where it is challenged and longer bytes repeat at `p + 1` or `p + 2` (R164). -/
def GivesUp (s : State) : Prop :=
  challenged s = true ∧ (Repeats s (s.pN + 1) (s.bestN + 1) ∨ Repeats s (s.pN + 2) (s.bestN + 2))

theorem lazyOp_bestLen (hr : SearchReady s) (h : lazyOp s = .ok t) :
    (GivesUp s ∧ t.mf.bestLen = 0) ∨ (¬GivesUp s ∧ t.mf.bestLen = s.mf.bestLen) := by
  unfold lazyOp at h
  split at h
  · next hc =>
    split at h
    · cases h
    · next u hu =>
      cases h
      exact .inl ⟨⟨hc, .inl ((probeOp_iff_repeats hr (Nat.le_succ _) hu).1 rfl)⟩, rfl⟩
    · next u hu =>
      have hno := mt (probeOp_iff_repeats hr (Nat.le_succ _) hu).2 Bool.false_ne_true
      obtain ⟨m, rfl, hbest, -⟩ := probeOp_ok hu
      have hru : SearchReady (s.endSearch m) := hr.of_frame (sameBut_withMf_withDraws s m _)
      have hpos : (s.endSearch m).pN ≤ s.pN + 2 := Nat.le_add_right _ _
      split at h
      · cases h
      · next v hv =>
        cases h
        exact .inl ⟨⟨hc, .inr ((probeOp_iff_repeats hru hpos hv).1 rfl)⟩, rfl⟩
      · next v hv =>
        cases h
        have hno2 := mt (probeOp_iff_repeats hru hpos hv).2 Bool.false_ne_true
        obtain ⟨m', rfl, hbest', -⟩ := probeOp_ok hv
        exact .inr ⟨fun hg => hg.2.elim hno hno2, hbest'.trans hbest⟩
  · next hc => cases h; exact .inr ⟨fun hg => hc hg.1, rfl⟩

theorem GivesUp.congr (h : TwinMatch s s') : GivesUp s ↔ GivesUp s' := by
  have hbest : s'.bestN = s.bestN := congrArg BitVec.toNat h.best.symm
  unfold GivesUp challenged matchSurvives
  rw [hbest, h.twin.pN_eq, h.twin.inN_eq, ← h.twin.level]
  refine and_congr_right fun hc => ?_
  have h4 : 4 ≤ s.bestN := by simp_all
  exact or_congr (Repeats.congr h.twin (by omega) (by omega)) (Repeats.congr h.twin (by omega) (by omega))

theorem lazyOp_twin (h : TwinMatch s s') (hr : SearchReady s) (hr' : SearchReady s') (ht : lazyOp s = .ok t)
    (ht' : lazyOp s' = .ok t') : TwinMatch t t' := by
  have hbest := lazyOp_bestLen hr ht
  have hbest' := lazyOp_bestLen hr' ht'
  rw [← GivesUp.congr h, ← h.best] at hbest'
  obtain ⟨m, k, rfl, hd, -⟩ := lazyOp_ok ht
  obtain ⟨m', k', rfl, hd', -⟩ := lazyOp_ok ht'
  refine ⟨h.twin.of_frames ((sameBut_withMf_withDraws s m k).mono (by decide))
    ((sameBut_withMf_withDraws s' m' k').mono (by decide)), ?_, (hd.trans h.dist).trans hd'.symm⟩
  rcases hbest with ⟨hg, hb⟩ | ⟨hg, hb⟩ <;> rcases hbest' with ⟨hg', hb'⟩ | ⟨hg', hb'⟩
  · exact hb.trans hb'.symm
  · exact absurd hg hg'
  · exact absurd hg' hg
  · exact hb.trans hb'.symm

theorem decideOp_twin (h : Twin s s') (hr : SearchReady s) (hr' : SearchReady s') (ht : decideOp s = .ok t)
    (ht' : decideOp s' = .ok t') : Twin t t' := by
  obtain ⟨u, hu, ht⟩ := phases_ok (decideOp_eq s ▸ ht)
  obtain ⟨u', hu', ht'⟩ := phases_ok (decideOp_eq s' ▸ ht')
  obtain ⟨v, hv, ht⟩ := phases_ok ht
  obtain ⟨v', hv', ht'⟩ := phases_ok ht'
  obtain ⟨-, -, -, f, -⟩ := searchOp_result hu
  obtain ⟨-, -, -, f', -⟩ := searchOp_result hu'
  exact commitOp_twin (lazyOp_twin (suppressOp_twin (searchOp_twin h hr hr' hu hu'))
    (hr.of_frame (f.trans (suppressOp_frame u))) (hr'.of_frame (f'.trans (suppressOp_frame u'))) hv hv') ht ht'

end

/-! ## Whole commands side by side -/

/-- What a COMPRESS keeps between two decisions, as far as the stream depends on it. -/
structure CompressRun (s : State) : Prop where
  busy : s.status = .busy
  data : DataWf s
  inLen_le : s.inN ≤ 2139095024
  tables : ∃ tail0, TableInvariant tail0 s

theorem CompressRun.ready {s : State} (h : CompressRun s) : SearchReady s :=
  ⟨h.inLen_le.trans (by decide), h.tables⟩

/-- Two commands that run side by side. -/
structure RunTogether (s s' : State) : Prop where
  twin : Twin s s'
  first : CompressRun s
  second : CompressRun s'

/-- Two commands that have ended with the same stream. -/
structure EndTogether (s s' : State) : Prop where
  done : s.status = .done
  done' : s'.status = .done
  result : s.result = s'.result
  out : ∀ a, a < s.result.toNat → s.outMem.byte? a = s'.outMem.byte? a

theorem decideOp_compressRun {s t : State} (h : CompressRun s) (ht : decideOp s = .ok t) : CompressRun t := by
  obtain ⟨hp, n, u, v, hd⟩ := decideOp_decides ht
  obtain ⟨hbusy, hw, hN, tail0, hi⟩ := h
  have hst : t.status = s.status := hd.frame hp .status (by decide)
  refine ⟨hst.trans hbusy, hd.dataWf hw, ?_, tail0, hd.tableInvariant hp hw hN hi⟩
  rw [State.inN, hd.frame hp .inLen (by decide)]
  exact hN

theorem finishCompress_together {s s' : State} (h : Twin s s') : EndTogether (finishCompress s) (finishCompress s') where
  done := finishCompress_status s
  done' := finishCompress_status s'
  result := by rw [finishCompress_result, finishCompress_result, h.enc]
  out a ha := by
    rw [finishCompress_result] at ha
    rw [finishCompress_outMem, finishCompress_outMem, Memory.byte?_scramble_outside (.inl ha),
      Memory.byte?_scramble_outside (.inl (ha.trans_eq h.encOp_eq.symm)), h.out a ha]

/-- A step of both commands leaves them together. -/
theorem encoderStep_together {s s' t t' : State} (h : RunTogether s s') (ht : encoderStep s = .next t)
    (ht' : encoderStep s' = .next t') : RunTogether t t' ∨ EndTogether t t' := by
  obtain ⟨htwin, hfirst, hsecond⟩ := h
  unfold encoderStep at ht ht'
  rw [htwin.pN_eq, htwin.inN_eq] at ht'
  split at ht
  · next hp =>
    rw [if_pos hp] at ht'
    have ht := conclude_next_of_neverRaises (decideOp_neverRaises s) ht
    have ht' := conclude_next_of_neverRaises (decideOp_neverRaises s') ht'
    exact .inl ⟨decideOp_twin htwin hfirst.ready hsecond.ready ht ht', decideOp_compressRun hfirst ht,
      decideOp_compressRun hsecond ht'⟩
  · next hp =>
    rw [if_neg hp] at ht'
    obtain ⟨u, hu, ht⟩ := andThen_next ht
    obtain ⟨u', hu', ht'⟩ := andThen_next ht'
    cases ht
    cases ht'
    have hu := conclude_next_of_neverRaises (emitFinalOp_neverRaises s) hu
    have hu' := conclude_next_of_neverRaises (emitFinalOp_neverRaises s') hu'
    exact .inr (finishCompress_together (emitFinalOp_twin htwin hu hu'))

theorem runBusy_together : ∀ {n : Nat} {s s' t t' : State}, RunTogether s s' → runBusy encoderStep n s = .next t →
    runBusy encoderStep n s' = .next t' → RunTogether t t' ∨ EndTogether t t'
  | 0, s, s', t, t', h, ht, ht' => by cases ht; cases ht'; exact .inl h
  | n + 1, s, s', t, t', h, ht, ht' => by
    rw [runBusy, h.first.busy] at ht
    rw [runBusy, h.second.busy] at ht'
    obtain ⟨u, hu, ht⟩ := andThen_next ht
    obtain ⟨u', hu', ht'⟩ := andThen_next ht'
    rcases encoderStep_together h hu hu' with hrun | hend
    · exact runBusy_together hrun ht ht'
    · rw [runBusy_idle (by rw [hend.done]; decide)] at ht
      rw [runBusy_idle (by rw [hend.done']; decide)] at ht'
      cases ht
      cases ht'
      exact .inr hend

theorem launchCompress_run {s : State} (hw : DataWf s) (h : CompressReady s) : CompressRun (launchCompress s) where
  busy := rfl
  data := launchCompress_dataWf hw
  inLen_le := (launchCompress_encoderInv h).operands.inLen_le
  tables := ⟨s.tail, tableInvariant_congr (decideKeepsTableInvariant.1 s _ rfl) rfl rfl rfl rfl⟩

theorem launchCompress_twin {s s' : State} (hin : s.inLen = s'.inLen) (hl : s.level = s'.level)
    (hi : SameInput s s' s.inN) : Twin (launchCompress s) (launchCompress s') :=
  ⟨hin, hl, hi, rfl, Nat.zero_le _, Nat.zero_le _, fun _ ha => absurd ha (Nat.not_lt_zero _)⟩

/-- Settles O35: the launches stand together, and every step keeps the two commands together up to their end. -/
theorem compressDependsOnInputAndLevel : Obligations.CompressDependsOnInputAndLevel := by
  intro s s' t t' hw hw' hr hr' hin hl hi ht ht'
  have htogether : RunTogether (launchCompress s) (launchCompress s') :=
    ⟨launchCompress_twin hin hl hi, launchCompress_run hw hr, launchCompress_run hw' hr'⟩
  have hdone := execCompress_done ht
  obtain ⟨-, ht⟩ := execCompress_next ht
  obtain ⟨-, ht'⟩ := execCompress_next ht'
  rw [State.inN, ← hin] at ht'
  rcases runBusy_together htogether ht ht' with hrun | hend
  · exact nomatch hdone.symm.trans hrun.first.busy
  · exact ⟨hend.result, hend.out⟩

end Sys2Proof.Proofs

/-! SUPPORT. The bytes an emission writes (R165, R166, R169): each part of a token at the cursor, then the token as a whole, and
that an emission with room for its bytes completes. -/

namespace Sys2Proof.Proofs

open Sys2Proof.Machine Sys2Proof.Safety

/-! ## Slices -/

theorem slice_length {m : Memory} : ∀ {n a : Nat} {bs : List Byte}, m.slice a n = some bs → bs.length = n
  | 0, _, _, h => by cases h; rfl
  | n + 1, a, bs, h => by
    rw [Memory.slice] at h
    split at h
    · next hbs => cases h; rw [List.length_cons, slice_length hbs]
    · cases h

/-- A slice is as long as it was asked to be, and holds the memory's bytes. -/
theorem slice_eq_some_iff {m : Memory} {a n : Nat} {bs : List Byte} :
    m.slice a n = some bs ↔ bs.length = n ∧ ∀ k, k < n → m.byte? (a + k) = bs[k]? := by
  refine ⟨fun h => ⟨slice_length h, fun k => byte?_of_slice h⟩, fun ⟨hlen, hbs⟩ => ?_⟩
  have hsome : (m.slice a n).isSome = true := (Memory.slice_isSome_iff n a m).2 fun c hac hcn => by
    obtain ⟨k, rfl⟩ := Nat.exists_eq_add_of_le hac
    rw [hbs k (by omega), List.getElem?_eq_getElem (by omega)]
    rfl
  obtain ⟨cs, hcs⟩ := Option.isSome_iff_exists.1 hsome
  have hclen := slice_length hcs
  rw [hcs]
  refine congrArg some (List.ext_getElem? fun k => ?_)
  by_cases hk : k < n
  · rw [← byte?_of_slice hcs hk, hbs k hk]
  · rw [List.getElem?_eq_none (by omega), List.getElem?_eq_none (by omega)]

/-- Two slices that follow each other. -/
theorem slice_append {m : Memory} {a n k : Nat} {bs cs : List Byte} (hb : m.slice a n = some bs)
    (hc : m.slice (a + n) k = some cs) : m.slice a (n + k) = some (bs ++ cs) := by
  obtain ⟨hblen, hb⟩ := slice_eq_some_iff.1 hb
  obtain ⟨hclen, hc⟩ := slice_eq_some_iff.1 hc
  refine slice_eq_some_iff.2 ⟨by rw [List.length_append, hblen, hclen], fun j hj => ?_⟩
  by_cases hlt : j < n
  · rw [hb j hlt, List.getElem?_append_left (by omega)]
  · obtain ⟨i, rfl⟩ := Nat.exists_eq_add_of_le (Nat.le_of_not_lt hlt)
    rw [← Nat.add_assoc, hc i (by omega), List.getElem?_append_right (by omega)]
    congr 1
    omega

/-- The bytes behind the first ones of a slice. -/
theorem slice_of_append {m : Memory} {a n : Nat} {bs cs : List Byte} (h : m.slice a n = some (bs ++ cs)) :
    m.slice (a + bs.length) (n - bs.length) = some cs := by
  obtain ⟨hlen, h⟩ := slice_eq_some_iff.1 h
  rw [List.length_append] at hlen
  refine slice_eq_some_iff.2 ⟨by omega, fun k hk => ?_⟩
  rw [Nat.add_assoc, h _ (by omega), List.getElem?_append_right (by omega), Nat.add_sub_cancel_left]

theorem slice_congr {m m' : Memory} {a b n : Nat} (h : ∀ k, k < n → m.byte? (a + k) = m'.byte? (b + k)) :
    m.slice a n = m'.slice b n := by
  refine Option.ext fun bs => ?_
  rw [slice_eq_some_iff, slice_eq_some_iff]
  exact and_congr_right fun _ => forall_congr' fun k => forall_congr' fun hk => by rw [h k hk]

/-! ## What an emission writes -/

/-- Exactly `bs` written at the Encoder's output cursor, which moves behind it, and no byte of OUT changed but the first `ext`
from the cursor on. -/
structure Writes (bs : List Byte) (ext : Nat) (s t : State) : Prop where
  emits : Emits bs.length s t
  op : t.encOp = s.encOp + bs.length
  holds : OutHolds t s.encOp bs
  outside : OutSameOutside s.encOp (s.encOp + ext) s t

theorem Emits.outCap {n : Nat} {s t : State} (h : Emits n s t) : t.outCap = s.outCap := h.frame .outCap (by decide)
theorem Emits.inMem {n : Nat} {s t : State} (h : Emits n s t) : t.inMem = s.inMem := h.frame .inMem (by decide)

theorem writes_nil (s : State) : Writes [] 0 s s := ⟨emits_refl s, rfl, rfl, fun _ _ => rfl⟩

theorem Writes.trans {bs cs : List Byte} {ext ext' : Nat} {s t u : State} (h : Writes bs ext s t)
    (h' : Writes cs ext' t u) : Writes (bs ++ cs) (max ext (bs.length + ext')) s u := by
  have hop := h.op
  refine ⟨?_, ?_, ?_, fun a ha => ?_⟩
  · rw [List.length_append]; exact h.emits.trans h'.emits
  · rw [h'.op, hop, List.length_append, Nat.add_assoc]
  · have hbs : u.outMem.slice s.encOp bs.length = some bs :=
      (slice_congr fun k hk => h'.outside _ (.inl (by omega))).trans h.holds
    rw [OutHolds, List.length_append]
    exact slice_append hbs (hop ▸ h'.holds)
  · rw [h'.outside a (by omega), h.outside a (by omega)]

theorem Writes.mono {bs : List Byte} {ext ext' : Nat} {s t : State} (h : Writes bs ext s t) (hle : ext ≤ ext') :
    Writes bs ext' s t :=
  ⟨h.emits, h.op, h.holds, fun a ha => h.outside a (by omega)⟩

/-- OUT with its slack was lent, and `n` bytes fit below the capacity. -/
structure Room (n : Nat) (s : State) : Prop where
  lent : s.outMem.covers (s.capN + 16) = true
  fits : s.encOp + n ≤ s.capN

theorem Room.mono {n k : Nat} {s : State} (h : Room n s) (hk : k ≤ n) : Room k s :=
  ⟨h.lent, (Nat.add_le_add_left hk _).trans h.fits⟩

theorem Room.after {bs : List Byte} {ext n : Nat} {s t : State} (h : Room (bs.length + n) s) (hw : Writes bs ext s t) :
    Room n t := by
  have hcap : t.capN = s.capN := congrArg BitVec.toNat hw.emits.outCap
  refine ⟨?_, ?_⟩ <;> rw [hcap]
  · rw [Memory.covers_of_addrs hw.emits.addrs]; exact h.lent
  · rw [hw.op, Nat.add_assoc]; exact h.fits

/-- The operation completes and writes exactly `bs`. -/
def Writing (r : Except Stop State) (bs : List Byte) (ext : Nat) (s : State) : Prop := ∃ t, r = .ok t ∧ Writes bs ext s t

theorem Writing.phases {r : Except Stop State} {f : State → Except Stop State} {bs cs : List Byte} {ext ext' : Nat}
    {s : State} (h : Writing r bs ext s) (hroom : Room (bs ++ cs).length s)
    (hf : ∀ t, Writes bs ext s t → Room cs.length t → Writing (f t) cs ext' t) :
    Writing (phases r f) (bs ++ cs) (max ext (bs.length + ext')) s := by
  obtain ⟨t, rfl, ht⟩ := h
  rw [List.length_append] at hroom
  obtain ⟨u, hu, hw⟩ := hf t ht (hroom.after ht)
  exact ⟨u, hu, ht.trans hw⟩

theorem putBytes_writing {bs : List Byte} {s : State} (h : Room bs.length s) :
    Writing (putBytes bs s) bs bs.length s := by
  obtain ⟨hlent, hfits⟩ := h
  rw [Memory.covers_iff] at hlent
  obtain ⟨out, ho⟩ := setBytes?_succeeds (bs := bs) (m := s.outMem) (a := s.encOp) fun k hk => hlent _ (by omega)
  have hput : putBytes bs s = .ok ((s.withOut out).setEncOp (s.encOp + bs.length)) := by rw [putBytes, ho]
  exact ⟨_, hput, putBytes_emits hput, ofNat_toNat_of_lt (hfits.trans_lt (capN_lt s)), Memory.slice_setBytes? ho,
    fun a ha => Memory.byte?_setBytes?_outside ho ha⟩

/-- The pending literals, with the overrun of their WILDCOPY (R170, R205). -/
theorem literalCopy_writing {ls : List Byte} {s : State} (hls : s.inMem.slice (s.pN - s.runN) s.runN = some ls)
    (h : Room ls.length s) : Writing (literalCopy s) ls (wildExtent ls.length) s := by
  obtain ⟨hlent, hfits⟩ := h
  obtain ⟨hlen, hbytes⟩ := slice_eq_some_iff.1 hls
  rw [Memory.covers_iff] at hlent
  obtain ⟨out, ho⟩ := copyLoop_succeeds (inM := s.inMem) (src := .input) (n := s.runN) (d := s.encOp)
    (s := s.pN - s.runN) (out := s.outMem)
    (fun k hk => by
      show (s.inMem.byte? _).isSome = true
      rw [hbytes k hk, List.getElem?_eq_getElem (by omega)]
      rfl)
    (fun k hk => hlent _ (by omega))
  have hwild : wildcopyOp .input s.encOp (s.pN - s.runN) s.runN s =
      .ok ((s.withOut out).clobber (s.encOp + s.runN) (wildExtent s.runN - s.runN)) := by rw [wildcopyOp, ho]
  have hcopy : literalCopy s =
      .ok (((s.withOut out).clobber (s.encOp + s.runN) (wildExtent s.runN - s.runN)).setEncOp (s.encOp + s.runN)) := by
    rw [literalCopy, hwild]
  rw [hlen]
  refine ⟨_, hcopy, hlen ▸ literalCopy_emits hcopy, ?_, slice_eq_some_iff.2 ⟨rfl, fun k hk => ?_⟩, fun a => ?_⟩
  · rw [hlen]
    exact ofNat_toNat_of_lt ((hlen ▸ hfits).trans_lt (capN_lt s))
  · show (Memory.scramble _ _ _ out).byte? _ = _
    rw [Memory.byte?_scramble_outside (.inl (by omega)), copyLoop_input_byte? ho (by omega), hbytes k (by omega)]
  · have := wildcopyOp_outside (a := a) hwild
    exact this

/-! ## Tokens -/

/-- The bytes of a varint that is there only where `b` holds. -/
def optVarint (b : Prop) [Decidable b] (x : Nat) : List Byte := if b then varintEnc x else []

theorem optVarint_length (b : Prop) [Decidable b] (x : Nat) : (optVarint b x).length = optVlen b x := by
  unfold optVarint optVlen
  split <;> rfl

theorem emitvarOr_writing {b : Prop} [Decidable b] {x : Nat} {s : State} (h : Room (optVarint b x).length s) :
    Writing (if b then emitvarOp x s else .ok s) (optVarint b x) (optVarint b x).length s := by
  unfold optVarint at h ⊢
  split
  · next hb => rw [if_pos hb] at h; exact putBytes_writing h
  · exact ⟨s, rfl, writes_nil s⟩

/-- The tag, the run varint and the literals of a token (R92, R94). -/
def headBytes (hi code : Nat) (ls : List Byte) : List Byte :=
  [mkTag (min ls.length 7) hi code] ++ (optVarint (7 ≤ ls.length) (ls.length - 7) ++ ls)

/-- How far the head of a token with `run` literals may be written from its beginning on (R205). -/
def headExtent (run : Nat) : Nat := if run = 0 then 1 else 1 + (optVlen (7 ≤ run) (run - 7) + wildExtent run)

theorem emitHead_writing {hi code : Nat} {ls : List Byte} {s : State}
    (hls : s.inMem.slice (s.pN - s.runN) s.runN = some ls) (h : Room (headBytes hi code ls).length s) :
    Writing (emitHead hi code s) (headBytes hi code ls) (headExtent s.runN) s := by
  obtain rfl | hne := eq_or_ne ls []
  · have hrun : s.runN = 0 := (slice_length hls).symm
    rw [emitHead_eq, if_pos hrun, headExtent, if_pos hrun]
    exact putBytes_writing h
  · have hlen := slice_length hls
    have hpos := List.length_pos_iff.2 hne
    rw [emitHead_eq, if_neg (by omega), ← hlen]
    obtain ⟨t, ht, hw⟩ := (putBytes_writing (h.mono (by simp [headBytes]))).phases h fun u hu hroom =>
      (emitvarOr_writing (hroom.mono (by simp))).phases hroom fun v hv hroom => by
        have hin : v.inMem = s.inMem := hv.emits.inMem.trans hu.emits.inMem
        have hp : v.pN = s.pN := hv.emits.p.trans hu.emits.p
        have hrun : v.runN = s.runN := hv.emits.run.trans hu.emits.run
        exact literalCopy_writing (by rw [hin, hp, hrun]; exact hls) hroom
    refine ⟨t, ht, hw.mono ?_⟩
    rw [headExtent, if_neg (by omega), List.length_singleton, optVarint_length]
    omega

/-- The bytes of the token that pending literals and a match make (R92). -/
def matchBytes (ls : List Byte) (best : Nat) (dist : BitVec 17) : List Byte :=
  headBytes (distHi dist) (min (best - 4) 15) ls ++ (optVarint (15 ≤ best - 4) (best - 4 - 15) ++ dist16 dist)

theorem matchBytes_length (ls : List Byte) (best : Nat) (dist : BitVec 17) :
    (matchBytes ls best dist).length = matchTokenLen ls.length best := by
  simp only [matchBytes, headBytes, List.length_append, List.length_singleton, optVarint_length, matchTokenLen,
    Laws.TokenLength.dist16_length]

/-- The run field of a token: none, short, or 7 with a varint (R94). -/
theorem runField_cases (ls : List Byte) :
    ls = [] ∨
    (ls.length ≠ 0 ∧ ls.length < 7 ∧ min ls.length 7 = ls.length ∧ optVarint (7 ≤ ls.length) (ls.length - 7) = []) ∨
    (ls.length ≠ 0 ∧ ¬ls.length < 7 ∧ min ls.length 7 = 7 ∧
      optVarint (7 ≤ ls.length) (ls.length - 7) = runVar ls) := by
  rcases Nat.lt_or_ge ls.length 7 with h | h
  · rcases eq_or_ne ls [] with rfl | hne
    · exact .inl rfl
    · exact .inr (.inl ⟨mt List.length_eq_zero_iff.1 hne, h, Nat.min_eq_left h.le, if_neg (Nat.not_le.2 h)⟩)
  · exact .inr (.inr ⟨by omega, Nat.not_lt.2 h, Nat.min_eq_right h, if_pos h⟩)

/-- The length field of a token: the tag's own four bits, or 15 with a varint (R98). -/
theorem lenField_cases {best : Nat} (h4 : 4 ≤ best) :
    (best < 19 ∧ min (best - 4) 15 = (BitVec.ofNat 4 (best - 4)).toNat ∧
      optVarint (15 ≤ best - 4) (best - 4 - 15) = []) ∨
    (¬best < 19 ∧ min (best - 4) 15 = 15 ∧ optVarint (15 ≤ best - 4) (best - 4 - 15) = varintEnc (best - 19)) := by
  rcases Nat.lt_or_ge best 19 with h | h
  · exact .inl ⟨h, by rw [BitVec.toNat_ofNat]; omega, if_neg (by omega)⟩
  · exact .inr ⟨by omega, by omega, by rw [optVarint, if_pos (by omega)]; congr 1⟩

/-- What EMIT_MATCH writes is the token's encoding (R92, R105). -/
theorem encode_assembleMatch {ls : List Byte} {best : Nat} (dist : BitVec 17) (h4 : 4 ≤ best) :
    encode (assembleMatch ls best dist) = some (matchBytes ls best dist) := by
  unfold assembleMatch matchBytes headBytes
  rcases lenField_cases h4 with ⟨hbest, hcode, hvar⟩ | ⟨hbest, hcode, hvar⟩ <;>
    rcases runField_cases ls with rfl | ⟨h0, h7, hrun, hrunVar⟩ | ⟨h0, h7, hrun, hrunVar⟩
  case inl.inl | inr.inl => rw [hcode, hvar]; simp [hbest, encode, optVarint]
  all_goals rw [hcode, hvar, hrun, hrunVar, if_neg h0]; simp [h7, hbest, encode]

/-- What EMIT_FINAL writes is the L token's encoding (R93, R105). -/
theorem encode_assembleFinal (ls : List Byte) : encode (assembleFinal ls) = some (headBytes 0 0 ls) := by
  simp only [assembleFinal, headBytes, optVarint]
  rcases Nat.lt_or_ge ls.length 7 with h | h
  · simp [encode, h, Nat.not_le.2 h, Nat.min_eq_left h.le]
  · simp [encode, runVar, h, Nat.not_lt.2 h]

/-- EMIT_MATCH writes its token (R165). -/
theorem emitMatchOp_writing {ls : List Byte} {s : State} (h4 : 4 ≤ s.bestN) (hd1 : 1 ≤ s.distN) (hd : s.distN ≤ 131071)
    (hrun : s.runN ≤ s.pN) (hls : s.inMem.slice (s.pN - s.runN) s.runN = some ls)
    (hroom : Room (matchBytes ls s.bestN (BitVec.ofNat 17 s.distN)).length s) :
    Writing (emitMatchOp s) (matchBytes ls s.bestN (BitVec.ofNat 17 s.distN))
      (max (matchBytes ls s.bestN (BitVec.ofNat 17 s.distN)).length (headExtent s.runN)) s := by
  rw [emitMatchOp_eq, if_neg (by omega)]
  have hhead := emitHead_writing hls (hroom.mono (List.length_append ▸ Nat.le_add_right _ _))
  obtain ⟨t, ht, hw⟩ := hhead.phases hroom fun u hu hroom =>
    (emitvarOr_writing (hroom.mono (by simp))).phases hroom fun v hv hroom => putBytes_writing hroom
  refine ⟨t, ht, hw.mono ?_⟩
  simp only [matchBytes, List.length_append]
  omega

/-- EMIT_FINAL writes its token (R169). -/
theorem emitFinalOp_writing {ls : List Byte} {s : State} (h0 : s.runN ≠ 0) (hrun : s.runN ≤ s.pN)
    (hls : s.inMem.slice (s.pN - s.runN) s.runN = some ls) (hroom : Room (headBytes 0 0 ls).length s) :
    Writing (emitFinalOp s) (headBytes 0 0 ls) (headExtent s.runN) s := by
  rw [emitFinalOp, if_neg h0, if_neg (by omega)]
  exact emitHead_writing hls hroom

/-! ## The statements on emission -/

theorem Writes.enc {bs : List Byte} {ext : Nat} {s t : State} (h : Writes bs ext s t) :
    t.enc.p = s.enc.p ∧ t.enc.run = s.enc.run :=
  ⟨BitVec.toNat_inj.1 h.emits.p, BitVec.toNat_inj.1 h.emits.run⟩

/-- Settles O26: the token's parts are written one behind the other, and their bytes are those of its encoding. -/
theorem emitMatchWritesToken : Obligations.EmitMatchWritesToken := by
  intro s ls bs h4 hd1 hd hrun hls henc hlent hfits
  rw [encode_assembleMatch _ h4] at henc
  cases henc
  obtain ⟨t, ht, hw⟩ := emitMatchOp_writing h4 hd1 hd hrun hls ⟨hlent, hfits⟩
  refine ⟨t, congrArg (conclude s) ht, hw.op, hw.holds, hw.enc.1, hw.enc.2, hw.emits.frame, fun a ha => hw.outside a ?_⟩
  have hpos : 1 ≤ (matchBytes ls s.bestN (BitVec.ofNat 17 s.distN)).length := by simp [matchBytes, headBytes]
  unfold headExtent optVlen wildExtent
  split_ifs at ha ⊢ <;> omega

/-- Settles O27: the same for the token without a match. -/
theorem emitFinalWritesToken : Obligations.EmitFinalWritesToken := by
  refine ⟨fun s h0 => congrArg (conclude s) (if_pos h0), fun s ls bs h0 hrun hls henc hlent hfits => ?_⟩
  rw [encode_assembleFinal] at henc
  cases henc
  obtain ⟨t, ht, hw⟩ := emitFinalOp_writing h0 hrun hls ⟨hlent, hfits⟩
  refine ⟨t, congrArg (conclude s) ht, hw.op, hw.holds, hw.enc.1, hw.enc.2, hw.emits.frame, fun a ha => hw.outside a ?_⟩
  rw [headExtent, if_neg h0]
  unfold optVlen wildExtent
  omega

/-- Settles O28: EMITVAR stores the varint's bytes at `op`, and a value below 2^31 has at most five of them. -/
theorem emitvarWritesVarint : Obligations.EmitvarWritesVarint := by
  intro s x hlent hfits
  obtain ⟨t, ht, hw⟩ := putBytes_writing (bs := varintEnc x) ⟨hlent, hfits⟩
  obtain ⟨out, -, rfl⟩ := putBytes_ok ht
  refine ⟨_, congrArg (conclude s) ht, hw.holds, hw.op, hw.enc.1, hw.enc.2,
    ((sameBut_withOut s out).mono (by decide)).trans ((sameBut_withEnc _ _).mono (by decide)), hw.outside, fun hx => ?_⟩
  obtain ⟨-, -, -, h5⟩ := vlen_bounds x
  exact h5 (by omega)

end Sys2Proof.Proofs

/-! SUPPORT. The parts of a DECIDE (R161 to R168) as instructions, and DECIDE as their composition (R162). -/

namespace Sys2Proof.Proofs

open Sys2Proof.Machine Sys2Proof.Safety

/-! ## START_COMPRESS and SUPPRESS -/

/-- Settles O21: the empty table holds `NIL` everywhere. -/
theorem startCompressEffect : Obligations.StartCompressEffect := fun s =>
  ⟨startCompressOp s, rfl, fun _ => rfl, rfl, rfl, rfl, fun part hp => by
    cases part <;> simp_all [Part.Same, startCompressOp]⟩

/-- Settles O22, by the two cases of SUPPRESS. -/
theorem suppressEffect : Obligations.SuppressEffect := by
  intro s
  rcases suppressOp_cases s with ⟨h4, hrun, he⟩ | ⟨hnot, he⟩
  · refine ⟨s.setBest 0, congrArg Host.Outcome.next he, (if_pos ⟨h4, hrun⟩).symm, rfl, fun part hp => ?_⟩
    cases part <;> simp_all [Part.Same]
  · exact ⟨s, congrArg Host.Outcome.next he, (if_neg hnot).symm, rfl, SameBut.refl _ s⟩

/-! ## LAZY (R164) -/

theorem challenged_iff {s : State} :
    challenged s = true ↔ s.level = 9 ∧ 4 ≤ s.bestN ∧ s.bestN < s.inN - s.pN := by
  simp only [challenged, matchSurvives, Bool.and_eq_true, decide_eq_true_eq, and_assoc, Nat.lt_sub_iff_add_lt']

theorem probeHits_iff {s t : State} {x n : Nat} {b : Bool} (h : probeOp x n s = .ok (b, t)) :
    ProbeHits s x n ↔ b = true := by
  simp [ProbeHits, exec_probe h]

/-- A search before it does not change what a PROBE answers (R22). -/
theorem probeOp_of_endSearch {s t : State} {m : MatchRegs} {x n : Nat} {b : Bool}
    (h : probeOp x n (s.endSearch m) = .ok (b, t)) : ∃ u, probeOp x n s = .ok (b, u) := by
  by_cases hlong : s.inN < x + n
  · rw [probeOp, if_pos (show (s.endSearch m).inN < x + n from hlong)] at h
    cases h
    exact ⟨_, if_pos hlong⟩
  · rw [probeOp, if_neg (show ¬(s.endSearch m).inN < x + n from hlong)] at h
    rw [probeOp, if_neg hlong]
    split at h
    · cases h
    · next k hk =>
      cases h
      rw [show hashAt s.inMem x = some k from hk]
      exact ⟨_, rfl⟩

/-- The match of LAZY is beaten by one of its two probes (R164). -/
def Beaten (s : State) : Prop :=
  challenged s = true ∧ (ProbeHits s (s.pN + 1) (s.bestN + 1) ∨ ProbeHits s (s.pN + 2) (s.bestN + 2))

theorem lazyOp_beaten {s t : State} (h : lazyOp s = .ok t) :
    (Beaten s ∧ t.bestN = 0) ∨ (¬Beaten s ∧ t.bestN = s.bestN) := by
  unfold lazyOp at h
  split at h
  · next hc =>
    split at h
    · cases h
    · next u hu => cases h; exact .inl ⟨⟨hc, .inl ((probeHits_iff hu).2 rfl)⟩, rfl⟩
    · next u hu =>
      have hfirst := mt (probeHits_iff hu).1 Bool.false_ne_true
      obtain ⟨m, rfl, hbest, -⟩ := probeOp_ok hu
      split at h
      · cases h
      · next v hv =>
        cases h
        obtain ⟨w, hw⟩ := probeOp_of_endSearch hv
        exact .inl ⟨⟨hc, .inr ((probeHits_iff hw).2 rfl)⟩, rfl⟩
      · next v hv =>
        cases h
        obtain ⟨w, hw⟩ := probeOp_of_endSearch hv
        have hsecond := mt (probeHits_iff hw).1 Bool.false_ne_true
        obtain ⟨m', rfl, hbest', -⟩ := probeOp_ok hv
        exact .inr ⟨fun hb => hb.2.elim hfirst hsecond, congrArg BitVec.toNat (hbest'.trans hbest)⟩
  · next hc => cases h; exact .inr ⟨fun hb => hc hb.1, rfl⟩

theorem lazyOp_completes {s : State} (hc : s.inMem.covers (s.inN + 16) = true) : ∃ t, lazyOp s = .ok t := by
  unfold lazyOp
  split
  · obtain ⟨b, u, hu⟩ := probeOp_completes (x := s.pN + 1) (n := s.bestN + 1) hc
    obtain ⟨m, rfl, -⟩ := probeOp_ok hu
    rw [hu]
    cases b with
    | true => exact ⟨_, rfl⟩
    | false =>
      obtain ⟨b', v, hv⟩ := probeOp_completes (s := s.endSearch m) (x := s.pN + 2) (n := s.bestN + 2) hc
      dsimp only
      rw [hv]
      cases b' <;> exact ⟨_, rfl⟩
  · exact ⟨s, rfl⟩

/-- Settles O23: LAZY completes, and a probe after another one answers what it would have answered alone. -/
theorem lazyEffect : Obligations.LazyEffect := by
  intro s hc
  obtain ⟨t, ht⟩ := lazyOp_completes hc
  have hbeaten : Beaten s ↔ s.level = 9 ∧ 4 ≤ s.bestN ∧ s.bestN < s.inN - s.pN ∧
      (ProbeHits s (s.pN + 1) (s.bestN + 1) ∨ ProbeHits s (s.pN + 2) (s.bestN + 2)) := by
    rw [Beaten, challenged_iff, and_assoc, and_assoc]
  have hcases := lazyOp_beaten ht
  rw [hbeaten] at hcases
  obtain ⟨m, k, rfl, hdist, -⟩ := lazyOp_ok ht
  refine ⟨_, congrArg (conclude s) ht, hdist, sameBut_withMf_withDraws s m k, fun hb => ?_, fun hb => ?_⟩
  · exact (hcases.resolve_right fun h => h.1 hb).2
  · exact (hcases.resolve_left fun h => hb h.1).2

/-! ## Insertions (R132, R133) -/

theorem insertOp_completes {q : Nat} {s : State} (hc : s.inMem.covers (s.inN + 16) = true) (hq : q < s.inN) :
    ∃ t, insertOp q s = .ok t := by
  obtain ⟨k, hk⟩ := hashAt_isSome hc (show q + 4 ≤ s.inN + 16 by omega)
  exact ⟨_, insertOp_succeeds hq hk⟩

theorem insertRange_completes : ∀ {n q : Nat} {s : State}, s.inMem.covers (s.inN + 16) = true → q + n ≤ s.inN →
    ∃ t, insertRange n q s = .ok t
  | 0, _, s, _, _ => ⟨s, rfl⟩
  | n + 1, q, s, hc, hq => by
    obtain ⟨u, hu⟩ := insertOp_completes hc (show q < s.inN by omega)
    have hm : u.inMem = s.inMem := insertOp_frame hu .inMem (by decide)
    have hN : u.inN = s.inN := congrArg BitVec.toNat (insertOp_frame hu .inLen (by decide))
    rw [insertRange_succ, hu]
    exact insertRange_completes (by rw [hm, hN]; exact hc) (by omega)

/-- How one operation behind another one ends, where neither raises an error. -/
theorem conclude_phases {r : Except Stop State} {f : State → Except Stop State} (hr : NeverRaises r)
    (hf : ∀ t, NeverRaises (f t)) (s : State) :
    conclude s (phases r f) = andThen (conclude s r) fun t => conclude t (f t) := by
  cases r with
  | ok t => exact conclude_of_neverRaises (hf t) s t
  | error e =>
    cases e with
    | raise c => exact absurd rfl (hr c)
    | fault f => rfl
    | refuse x => rfl

theorem inOrder_inserts : ∀ (n q : Nat) (s : State),
    inOrder ((List.range n).map fun k => Instr.insert (q + k)) s = conclude s (insertRange n q s)
  | 0, _, _ => rfl
  | n + 1, q, s => by
    have ih := inOrder_inserts n (q + 1)
    simp only [Nat.add_assoc, Nat.add_comm 1] at ih
    rw [insertRange_succ, conclude_phases (insertOp_neverRaises q s) (insertRange_neverRaises n (q + 1)),
      List.range_succ_eq_map, List.map_cons, List.map_map, inOrder]
    exact congrArg _ (funext ih)

/-- Settles O29: the insertions of ACCEPT are INSERTs one after another. -/
theorem acceptEffect : Obligations.AcceptEffect := by
  intro s hc hfit
  obtain ⟨u, hu⟩ := insertRange_completes hc hfit
  obtain ⟨hframe, -⟩ := insertRange_frame ((Nat.le_add_right _ _).trans hfit) hu
  have haccept : acceptOp s = .ok ((u.setP (s.pN + s.bestN)).setRun 0) := by rw [acceptOp_eq, hu]; rfl
  refine ⟨_, u, congrArg (conclude s) haccept, ?_, rfl, rfl, ofNat_toNat_of_lt (hfit.trans_lt (inN_lt s)), rfl, ?_, ?_⟩
  · rw [inOrder_inserts, hu]; rfl
  · exact congrArg (·.op) (hframe .enc (by decide))
  · exact (hframe.mono (by decide)).trans (((sameBut_withEnc u _).trans (sameBut_withEnc _ _)).mono (by decide))

/-- Settles O30: LITERAL is one INSERT, then the two registers. -/
theorem literalEffect : Obligations.LiteralEffect := by
  intro s hc hp hrun
  obtain ⟨u, hu⟩ := insertOp_completes hc hp
  have hframe := insertOp_frame hu
  have hN := inN_lt s
  have hliteral : literalOp s = .ok ((u.setRun (s.runN + 1)).setP (s.pN + 1)) := by rw [literalOp_eq, hu]; rfl
  refine ⟨_, u, congrArg (conclude s) hliteral, congrArg (conclude s) hu, rfl, rfl, ofNat_toNat_of_lt (by omega),
    ofNat_toNat_of_lt (by omega), ?_, ?_⟩
  · exact congrArg (·.op) (hframe .enc (by decide))
  · exact (hframe.mono (by decide)).trans (((sameBut_withEnc u _).trans (sameBut_withEnc _ _)).mono (by decide))

/-! ## DECIDE and its parts (R162) -/

theorem exec_findMatch_next {p : Nat} {s a : State} (h : exec (.findMatch p) s = .next a) :
    ∃ r t, findMatchOp p s = .ok (r, t) ∧ a = t.withRet (foundRet r) := by
  cases hf : findMatchOp p s with
  | ok rt =>
    obtain ⟨r, t⟩ := rt
    rw [exec_findMatch hf] at h
    cases h
    exact ⟨r, t, rfl, rfl⟩
  | error e =>
    rw [exec, execFindMatch, hf] at h
    cases e with
    | raise c => exact absurd hf (findMatchOp_neverRaises p s c)
    | fault f => cases h
    | refuse x => cases h

/-- The state in which DECIDE goes on is the one its search answers. -/
theorem searchOp_eq_searched {s t : State} {r : Found} (h : findMatchOp s.pN s = .ok (r, t)) {l d : Nat}
    (hr : (foundRet r = .noMatch ∧ l = 0 ∧ d = 0) ∨ foundRet r = .found l d) :
    searchOp s = .ok (searched s (t.withRet (foundRet r)) l d) := by
  obtain ⟨-, m, rfl⟩ := findMatchOp_ok h
  rw [searchOp, h]
  cases r with
  | noMatch =>
    obtain ⟨-, rfl, rfl⟩ := hr.resolve_right (by simp [foundRet])
    rfl
  | found l' d' =>
    obtain ⟨rfl, rfl⟩ : l' = l ∧ d' = d := by simpa [foundRet] using hr
    rfl

theorem acceptOp_neverRaises (s : State) : NeverRaises (acceptOp s) :=
  phases_neverRaises (insertRange_neverRaises _ _ s) fun _ => neverRaises_ok _

/-- What DECIDE does with its decision, as instructions. -/
theorem conclude_commitOp (s : State) : conclude s (commitOp s) =
    if 4 ≤ s.bestN then andThen (exec .emitMatch s) (exec .accept) else exec .literal s := by
  rw [commitOp_eq, matchSurvives]
  by_cases h : 4 ≤ s.bestN
  · rw [if_pos (decide_eq_true h), if_pos h]
    exact conclude_phases (emitMatchOp_neverRaises s) acceptOp_neverRaises s
  · rw [if_neg (by simpa using h), if_neg h]
    rfl

/-- DECIDE behind its search, as instructions. -/
theorem conclude_decision (s a : State) : conclude s (phases (lazyOp (suppressOp a)) commitOp) =
    andThen (exec .suppress a) fun b => andThen (exec .lazy b) fun c =>
      if 4 ≤ c.bestN then andThen (exec .emitMatch c) (exec .accept) else exec .literal c := by
  have hnever : NeverRaises (phases (lazyOp (suppressOp a)) commitOp) :=
    phases_neverRaises (lazyOp_neverRaises _) commitOp_neverRaises
  calc conclude s (phases (lazyOp (suppressOp a)) commitOp)
      = conclude (suppressOp a) (phases (lazyOp (suppressOp a)) commitOp) := conclude_of_neverRaises hnever _ _
    _ = andThen (exec .lazy (suppressOp a)) fun c => conclude c (commitOp c) :=
        conclude_phases (lazyOp_neverRaises _) commitOp_neverRaises _
    _ = _ := congrArg (andThen (exec .lazy (suppressOp a))) (funext conclude_commitOp)

/-- Settles O24: what follows the search is the rest of DECIDE, and a DECIDE inserts at least one position. -/
theorem decideIsItsParts : Obligations.DecideIsItsParts := by
  refine ⟨fun s a l d hfind hret => ?_, fun s t ho h => ?_⟩
  · obtain ⟨r, t, hr, rfl⟩ := exec_findMatch_next hfind
    rw [← conclude_decision s]
    refine congrArg (conclude s) ?_
    rw [decideOp_eq, searchOp_eq_searched hr hret]
    rfl
  · obtain ⟨hp, n, u, v, hd⟩ := decideOp_decides (conclude_next_of_neverRaises (decideOp_neverRaises s) h)
    have hpos := hd.pos
    rw [hd.pN_eq hp]
    exact ⟨hp, by omega⟩

end Sys2Proof.Proofs

/-! SUPPORT. What a DECIDE of a running COMPRESS decides and writes: the match it holds is a real one (R134), it has room for its
token (R173), so it completes (R162, R171). -/

namespace Sys2Proof.Proofs

open Sys2Proof.Machine Sys2Proof.Safety

/-! ## A match that is held is a real one -/

/-- The match in `best_len` and `dist`, where there is one: bytes of the input that stand `dist` before `p` too (R134). -/
structure RealMatch (s : State) : Prop where
  fits : s.pN + s.bestN ≤ s.inN
  pos : 1 ≤ s.distN
  window : s.distN ≤ 131071
  inside : s.distN ≤ s.pN
  agree : Agree s.inMem (s.pN - s.distN) s.pN s.bestN

/-- The candidates of a walk are earlier positions in the window (R33, R135). -/
theorem mem_chainFrom {tail : Table} {p : Nat}
    (htail : ∀ q : Nat, q < p → p ≤ q + 131072 → (tail.get (q % 131072)).toInt < q) :
    ∀ {n : Nat} {i : Int}, i < p → ∀ q ∈ chainFrom tail (windowLimit p) n i, q < p ∧ p < q + 131072
  | 0, _, _, _, hq => nomatch hq
  | n + 1, i, hi, q, hq => by
    rw [chainFrom] at hq
    split at hq
    · next hlim =>
      unfold windowLimit at hlim
      rcases List.mem_cons.1 hq with rfl | hq
      · omega
      · have hnext := htail i.toNat (by omega) (by omega)
        exact mem_chainFrom htail (by unfold chainNext; omega) q hq
    · cases hq

/-- What FIND_MATCH answers: the longest match of the chain it walks (R134). -/
theorem findMatchOp_chain {p : Nat} {s t : State} {r : Found} (h : findMatchOp p s = .ok (r, t)) :
    r = .noMatch ∨ ∃ k best dist, r = walkFound best dist ∧ Longest s.inMem p (s.inN - p)
      (chainFrom s.tail (windowLimit p) (maxChain s.level) (s.head.get k).toInt) best dist := by
  unfold findMatchOp at h
  split at h
  · cases h
  · split at h
    · cases h; exact .inl rfl
    · next hlong =>
      split at h
      · cases h
      · next k hk =>
        have h4 : 4 ≤ s.inN - p := Nat.le_of_not_lt hlong
        have hwalk := findWalk_longest (m := s.inMem) (tail := s.tail) (p := p) (limit := windowLimit p)
          (n := maxChain s.level) (le_max_right _ _) h4
          (w := ⟨(s.head.get k.toNat).toInt, maxChain s.level, 3, 0, (State.freeMatchRegs s.draws).len.toNat⟩)
          (seen := []) (.none fun _ hq => nomatch hq) h4
        rw [List.nil_append] at hwalk
        refine .inr ⟨k.toNat, _, _, ?_, hwalk⟩
        dsimp only at h
        unfold walkFound
        split at h <;> cases h
        · next hfound => rw [if_pos hfound]
        · next hnone => rw [if_neg hnone]

/-- A match found from entries that are earlier positions is a real one. -/
theorem searchOp_realMatch {s t : State} (hb : TablesBelow s) (h : searchOp s = .ok t) (h4 : 4 ≤ t.bestN) :
    RealMatch t := by
  obtain ⟨r, u, hu, hf, hmatch⟩ := searchOp_result h
  obtain ⟨hbest, hdist⟩ := Prod.mk.inj hmatch
  obtain ⟨hp, -⟩ := findMatchOp_ok hu
  have hN := inN_lt s
  have hpt : t.pN = s.pN := congrArg (·.p.toNat) (hf .enc (by decide))
  have hNt : t.inN = s.inN := congrArg BitVec.toNat (hf .inLen (by decide))
  have hmt : t.inMem = s.inMem := hf .inMem (by decide)
  rcases findMatchOp_chain hu with rfl | ⟨k, best, dist, rfl, hl⟩
  · rw [State.bestN, hbest] at h4
    exact absurd h4 (by decide)
  · generalize hseen : chainFrom s.tail _ _ _ = seen at hl
    cases hl with
    | none =>
      rw [State.bestN, hbest] at h4
      exact absurd h4 (by decide)
    | found min max agree _ _ _ =>
      rename_i near far q _ _ _
      obtain ⟨hqp, hwin⟩ := mem_chainFrom hb.tail (hb.head k) q (hseen ▸ List.mem_append_right near List.mem_cons_self)
      rw [walkFound, if_pos min] at hbest hdist
      rw [toNat_ofInt_sub hqp.le (by omega)] at hdist
      have hbest : t.bestN = best := (congrArg BitVec.toNat hbest).trans (ofNat_toNat_of_lt (by omega))
      have hdist : t.distN = s.pN - q := (congrArg BitVec.toNat hdist).trans (ofNat_toNat_of_lt (by omega))
      refine ⟨?_, ?_, ?_, ?_, ?_⟩ <;> simp only [hbest, hdist, hpt, hNt, hmt]
      · omega
      · omega
      · omega
      · omega
      · rwa [Nat.sub_sub_self hqp.le]

/-- The match that reaches EMIT_MATCH is the one the search found, if any does. -/
theorem realMatch_of_kept {s t : State} (h : 4 ≤ s.bestN → RealMatch s) (hf : SameBut [.mf, .draws] s t)
    (hd : t.mf.dist = s.mf.dist) (hb : t.mf.bestLen = s.mf.bestLen ∨ t.mf.bestLen = 0) (h4 : 4 ≤ t.bestN) :
    RealMatch t := by
  have hb : t.mf.bestLen = s.mf.bestLen := hb.resolve_right fun h0 => by
    rw [State.bestN, h0] at h4
    exact absurd h4 (by decide)
  have hm := h (by rw [State.bestN, ← hb]; exact h4)
  have henc : t.enc = s.enc := hf .enc (by decide)
  have hin : t.inLen = s.inLen := hf .inLen (by decide)
  have hmem : t.inMem = s.inMem := hf .inMem (by decide)
  refine ⟨?_, ?_, ?_, ?_, ?_⟩ <;> simp only [State.pN, State.bestN, State.distN, State.inN, henc, hin, hmem, hb, hd]
  · exact hm.fits
  · exact hm.pos
  · exact hm.window
  · exact hm.inside
  · exact hm.agree

theorem suppressOp_kept (s : State) : (suppressOp s).mf.dist = s.mf.dist ∧
    ((suppressOp s).mf.bestLen = s.mf.bestLen ∨ (suppressOp s).mf.bestLen = 0) := by
  rcases suppressOp_cases s with ⟨-, -, h⟩ | ⟨-, h⟩ <;> rw [h]
  · exact ⟨rfl, .inr rfl⟩
  · exact ⟨rfl, .inl rfl⟩

/-- SUPPRESS leaves no match of length 4 behind a long run (R163). -/
theorem suppressOp_worth (s : State) : ¬((suppressOp s).bestN = 4 ∧ 135 ≤ s.runN) := by
  rcases suppressOp_cases s with ⟨-, -, h⟩ | ⟨hnot, h⟩ <;> rw [h]
  · rintro ⟨h4, -⟩
    exact absurd (show 0 = 4 from h4) (by decide)
  · exact hnot

theorem searchOp_completes {s : State} (hc : s.inMem.covers (s.inN + 16) = true) (hp : s.pN < s.inN) :
    ∃ t, searchOp s = .ok t := by
  obtain ⟨r, t, h⟩ := findMatchOp_completes hc hp
  unfold searchOp
  rw [h]
  cases r <;> exact ⟨_, rfl⟩

/-- The decision of a DECIDE (R162): only the Match Finder's registers have changed, a surviving match is a real one and worth
its token (R163). -/
theorem decideOp_decision {s : State} (hb : TablesBelow s) (hc : s.inMem.covers (s.inN + 16) = true)
    (hp : s.pN < s.inN) : ∃ m k, decideOp s = commitOp ((s.withMf m).withDraws k) ∧
      (4 ≤ m.bestLen.toNat → RealMatch ((s.withMf m).withDraws k)) ∧ ¬(m.bestLen.toNat = 4 ∧ 135 ≤ s.runN) := by
  obtain ⟨a, ha⟩ := searchOp_completes hc hp
  have hreal := searchOp_realMatch hb ha
  have hdecide : decideOp s = phases (lazyOp (suppressOp a)) commitOp := by rw [decideOp_eq, ha]; rfl
  obtain ⟨-, m, rfl⟩ := searchOp_ok ha
  have hfb := suppressOp_frame (s.endSearch m)
  obtain ⟨hdist, hbest⟩ := suppressOp_kept (s.endSearch m)
  have hworth := suppressOp_worth (s.endSearch m)
  have hreal := realMatch_of_kept hreal hfb hdist hbest
  obtain ⟨u, hu⟩ := lazyOp_completes (s := suppressOp (s.endSearch m)) (by
    rw [State.inN, hfb .inMem (by decide), hfb .inLen (by decide)]; exact hc)
  rw [hu] at hdecide
  obtain ⟨m', k, rfl, hd, hbl⟩ := lazyOp_ok hu
  have hreal := realMatch_of_kept hreal (sameBut_withMf_withDraws _ m' k) hd hbl
  have hsame : ((suppressOp (s.endSearch m)).withMf m').withDraws k = (s.withMf m').withDraws k := by
    rcases suppressOp_cases (s.endSearch m) with ⟨-, -, h⟩ | ⟨-, h⟩ <;> rw [h] <;> rfl
  rw [hsame] at hreal hdecide
  refine ⟨m', k, hdecide, hreal, ?_⟩
  rintro ⟨h4, h135⟩
  rcases hbl with hkept | h0
  · exact hworth ⟨(congrArg BitVec.toNat hkept).symm.trans h4, h135⟩
  · exact absurd ((congrArg BitVec.toNat h0).symm.trans h4) (by decide)

/-! ## What a DECIDE writes -/

/-- A DECIDE for a literal: one more pending byte, nothing written (R168). -/
structure TakesLiteral (s t : State) : Prop where
  p : t.pN = s.pN + 1
  run : t.runN = s.runN + 1
  op : t.encOp = s.encOp
  out : t.outMem = s.outMem

/-- A DECIDE for a match: the token of the pending literals and of a match that repeats input bytes is written (R165, R167). -/
structure TakesMatch (ls : List Byte) (best dist : Nat) (s t : State) : Prop where
  literals : s.inMem.slice (s.pN - s.runN) s.runN = some ls
  min : 4 ≤ best
  pos : 1 ≤ dist
  window : dist ≤ 131071
  inside : dist ≤ s.pN
  agree : Agree s.inMem (s.pN - dist) s.pN best
  p : t.pN = s.pN + best
  run : t.runN = 0
  op : t.encOp = s.encOp + (matchBytes ls best (BitVec.ofNat 17 dist)).length
  holds : OutHolds t s.encOp (matchBytes ls best (BitVec.ofNat 17 dist))
  outside : OutSameOutside s.encOp (t.encOp + 15) s t

/-- The pending literals of a running COMPRESS are there. -/
theorem encoderInv_pending {s : State} (h : EncoderInv s) : ∃ ls, s.inMem.slice (s.pN - s.runN) s.runN = some ls := by
  obtain ⟨hin, -⟩ := h.buffers
  have hpos := h.pos
  have hrun := h.run
  rw [Memory.covers_iff] at hin
  exact Option.isSome_iff_exists.1 ((Memory.slice_isSome_iff _ _ _).2 fun c _ hc => hin c (by omega))

/-- A match that survived SUPPRESS has room for its token (R173, R174). -/
theorem encoderInv_room {s : State} (h : EncoderInv s) {best : Nat} (h4 : 4 ≤ best) (hfit : s.pN + best ≤ s.inN)
    (hworth : ¬(best = 4 ∧ 135 ≤ s.runN)) : Room (matchTokenLen s.runN best) s := by
  obtain ⟨-, -, -, -, hcap⟩ := h.operands
  obtain ⟨-, hout, -⟩ := h.buffers
  have hrun := h.run
  have hop := h.out
  have hN := inN_lt s
  have hlen := matchTokenLen_bound (x := s.pN - s.runN) (run := s.runN) s.enc.run.isLt (by omega) h4 hworth
  rw [Nat.sub_add_cancel hrun] at hlen
  exact ⟨hout, by omega⟩

/-- The literals' overrun ends inside the clobber zone behind the token (R63, R205). -/
theorem headExtent_le (run : Nat) : headExtent run ≤ 1 + (optVlen (7 ≤ run) (run - 7) + run) + 15 := by
  have := wildExtent_le run
  unfold headExtent
  split <;> omega

theorem commitOp_takesLiteral {s : State} (hc : s.inMem.covers (s.inN + 16) = true) (hp : s.pN < s.inN)
    (hrun : s.runN ≤ s.pN) (h4 : ¬4 ≤ s.bestN) : ∃ t, commitOp s = .ok t ∧ TakesLiteral s t := by
  obtain ⟨v, hv⟩ := insertOp_completes hc hp
  have hf := insertOp_frame hv
  have hN := inN_lt s
  refine ⟨(v.setRun (s.runN + 1)).setP (s.pN + 1), ?_, ofNat_toNat_of_lt (by omega), ofNat_toNat_of_lt (by omega),
    congrArg (·.op.toNat) (hf .enc (by decide)), hf .outMem (by decide)⟩
  rw [commitOp_eq, if_neg (by simpa [matchSurvives] using h4), literalOp_eq, hv]
  rfl

theorem commitOp_takesMatch {s : State} {ls : List Byte} (hc : s.inMem.covers (s.inN + 16) = true) (h4 : 4 ≤ s.bestN)
    (hreal : RealMatch s) (hrun : s.runN ≤ s.pN) (hls : s.inMem.slice (s.pN - s.runN) s.runN = some ls)
    (hroom : Room (matchTokenLen s.runN s.bestN) s) :
    ∃ t, commitOp s = .ok t ∧ TakesMatch ls s.bestN s.distN s t := by
  have hlen : (matchBytes ls s.bestN (BitVec.ofNat 17 s.distN)).length = matchTokenLen s.runN s.bestN := by
    rw [matchBytes_length, slice_length hls]
  obtain ⟨hfit, hpos, hwindow, hinside, hagree⟩ := hreal
  obtain ⟨v, hv, hw⟩ := emitMatchOp_writing h4 hpos hwindow hrun hls (hlen ▸ hroom)
  have hN := inN_lt s
  have hbest : v.bestN = s.bestN := congrArg (·.bestLen.toNat) (hw.emits.frame .mf (by decide))
  have hp : v.pN = s.pN := hw.emits.p
  have hin : v.inN = s.inN := congrArg BitVec.toNat (hw.emits.frame .inLen (by decide))
  obtain ⟨u, hu⟩ := insertRange_completes (n := v.bestN) (q := v.pN) (s := v) (by rw [hw.emits.inMem, hin]; exact hc)
    (by omega)
  obtain ⟨hf, -⟩ := insertRange_frame (by omega) hu
  have hout : u.outMem = v.outMem := hf .outMem (by decide)
  have hop : u.encOp = v.encOp := congrArg (·.op.toNat) (hf .enc (by decide))
  refine ⟨(u.setP (v.pN + v.bestN)).setRun 0, ?_, hls, h4, hpos, hwindow, hinside, hagree, ?_, rfl, hop.trans hw.op,
    ?_, ?_⟩
  · rw [commitOp_eq, if_pos (by simpa [matchSurvives] using h4), hv]
    show acceptOp v = _
    rw [acceptOp_eq, hu]
    rfl
  · rw [hp, hbest]
    exact ofNat_toNat_of_lt (by omega)
  · show u.outMem.slice _ _ = _
    rw [hout]
    exact hw.holds
  · intro a ha
    have hkept : u.outMem.byte? a = s.outMem.byte? a := by
      rw [hout]
      refine hw.outside a ?_
      have hext := headExtent_le s.runN
      have hend : ((u.setP (v.pN + v.bestN)).setRun 0).encOp = s.encOp + matchTokenLen s.runN s.bestN := by
        rw [← hlen, ← hw.op]; exact hop
      rw [hend] at ha
      rw [hlen]
      unfold matchTokenLen at ha ⊢
      omega
    exact hkept

/-- DECIDE of a running COMPRESS completes, with a literal or with a match (R162, R171). -/
theorem decideOp_takes {s : State} (hi : EncoderInv s) (hp : s.pN < s.inN) :
    ∃ t, decideOp s = .ok t ∧ (TakesLiteral s t ∨ ∃ ls best dist, TakesMatch ls best dist s t) := by
  obtain ⟨hc, -⟩ := hi.buffers
  obtain ⟨m, k, hdecide, hreal, hworth⟩ := decideOp_decision hi.tables hc hp
  rw [hdecide]
  by_cases h4 : 4 ≤ m.bestLen.toNat
  · obtain ⟨ls, hls⟩ := encoderInv_pending hi
    obtain ⟨hlent, hfits⟩ := encoderInv_room hi h4 (hreal h4).fits hworth
    obtain ⟨t, ht, htakes⟩ :=
      commitOp_takesMatch (s := (s.withMf m).withDraws k) hc h4 (hreal h4) hi.run hls ⟨hlent, hfits⟩
    -- What `TakesMatch` reads of the state is not among the Match Finder's registers.
    obtain ⟨-, min, pos, window, inside, agree, p, run, op, holds, outside⟩ := htakes
    exact ⟨t, ht, .inr ⟨ls, _, _, hls, min, pos, window, inside, agree, p, run, op, holds, outside⟩⟩
  · obtain ⟨t, ht, p, run, op, out⟩ := commitOp_takesLiteral (s := (s.withMf m).withDraws k) hc hp hi.run h4
    exact ⟨t, ht, .inl ⟨p, run, op, out⟩⟩

/-! ## A running COMPRESS completes its steps -/

/-- Settles O25: the DECIDE completes, and what it does as a whole keeps the invariant. -/
theorem decideAdvances : Obligations.DecideAdvances := by
  intro s hw hi hp
  obtain ⟨t, ht, -⟩ := decideOp_takes hi hp
  obtain ⟨-, n, u, v, hd⟩ := decideOp_decides ht
  have hpos := hd.pos
  refine ⟨t, congrArg (conclude s) ht, hd.encoderInv hp hw hi, ?_, ?_, hd.frame hp⟩ <;> rw [hd.pN_eq hp]
  · omega
  · exact (hd.range hp).2

/-- The final token has room (R173): it takes at most 3 bytes and the growth of the bound besides its literals. -/
theorem finalToken_bound {x run : Nat} (hrun : run < 4294967296) :
    x + x / 16519 + (1 + (optVlen (7 ≤ run) (run - 7) + run)) ≤ x + run + (x + run) / 16519 + 3 := by
  obtain ⟨r1, r2, r3, r5⟩ := vlen_bounds (run - 7)
  unfold optVlen
  split <;> omega

theorem headBytes_length (hi code : Nat) (ls : List Byte) :
    (headBytes hi code ls).length = 1 + (optVlen (7 ≤ ls.length) (ls.length - 7) + ls.length) := by
  simp only [headBytes, List.length_append, List.length_singleton, optVarint_length]

/-- EMIT_FINAL at the end of a running COMPRESS: nothing where no literal is pending, else the L token of the pending literals
(R169). -/
inductive Finishes (s : State) : State → Prop
  | nothing (noLits : s.runN = 0) : Finishes s s
  | token {ls : List Byte} {t : State} (pending : s.runN ≠ 0) (literals : s.inMem.slice (s.pN - s.runN) s.runN = some ls)
      (writes : Writes (headBytes 0 0 ls) (headExtent s.runN) s t) : Finishes s t

theorem emitFinalOp_finishes {s : State} (hi : EncoderInv s) (hp : s.pN = s.inN) :
    ∃ t, emitFinalOp s = .ok t ∧ Finishes s t := by
  by_cases h0 : s.runN = 0
  · exact ⟨s, if_pos h0, .nothing h0⟩
  · obtain ⟨ls, hls⟩ := encoderInv_pending hi
    obtain ⟨-, -, -, -, hcap⟩ := hi.operands
    obtain ⟨-, hlent, -⟩ := hi.buffers
    have hrun := hi.run
    have hop := hi.out
    have hbound := finalToken_bound (x := s.pN - s.runN) (run := s.runN) s.enc.run.isLt
    have hlen := headBytes_length 0 0 ls
    rw [slice_length hls] at hlen
    rw [Nat.sub_add_cancel hrun] at hbound
    obtain ⟨t, ht, hw⟩ := emitFinalOp_writing h0 hrun hls ⟨hlent, by omega⟩
    exact ⟨t, ht, .token h0 hls hw⟩

/-- A step of a running COMPRESS answers a state (R171, R174). -/
theorem encoderStep_completes {s : State} (hi : EncoderInv s) : ∃ t, encoderStep s = .next t := by
  have hpos := hi.pos
  unfold encoderStep
  split
  · next hp =>
    obtain ⟨t, ht, -⟩ := decideOp_takes hi hp
    exact ⟨t, congrArg (conclude s) ht⟩
  · obtain ⟨t, ht, -⟩ := emitFinalOp_finishes hi (by omega)
    rw [show execEmitFinal s = .next t from congrArg (conclude s) ht]
    exact ⟨_, rfl⟩

/-- Settles O11: the invariant is that of the running command, whose every step completes. -/
theorem busyStepCompletes : Obligations.BusyStepCompletes := by
  intro s hi hb
  rcases BitVec.eq_zero_or_eq_one s.cmd with hc | hc
  · rw [step_busy_compress hb hc]
    exact encoderStep_completes (hi.encoder hb hc)
  · rw [step_busy_decompress hb hc]
    exact decoderStep_completes (hi.decoder hb hc)

end Sys2Proof.Proofs

/-! SUPPORT. The stream a COMPRESS writes: token by token it stands for the input (R102, R172), and its length stays inside the
bound of R173. -/

namespace Sys2Proof.Proofs

open Sys2Proof.Machine Sys2Proof.Safety

/-! ## Streams that stand for an input -/

/-- A well-formed token whose literals are the input from `n` on, and whose match repeats input bytes from within the input. -/
structure Copies (m : Memory) (n : Nat) (i : Instr) : Prop where
  isToken : i.isToken = true
  wf : i.wf = true
  literals : m.slice n (lits i).length = some (lits i)
  repeats : i.isFinal = false → 1 ≤ matchDist i ∧ matchDist i ≤ n + (lits i).length ∧
    Agree m (n + (lits i).length - matchDist i) (n + (lits i).length) (matchLen i)

/-- The bytes are the encodings of tokens that stand for the input from `n` up to its end at `len`, an L token in the last place
only (R102). -/
inductive Stream (m : Memory) (len : Nat) : Nat → List Byte → Prop
  | done : Stream m len len []
  | token {n : Nat} {i : Instr} {used rest : List Byte} (copies : Copies m n i) (encoded : encode i = some used)
      (last : i.isFinal = true → rest = []) (more : Stream m len (n + (lits i).length + matchLen i) rest) :
      Stream m len n (used ++ rest)

/-- A token with a match before a stream (R165). -/
theorem stream_matchBytes {m : Memory} {len n best dist : Nat} {ls rest : List Byte}
    (hls : m.slice n ls.length = some ls) (hlen : ls.length < 4294967296) (h4 : 4 ≤ best) (hbest : best < 4294967296)
    (hpos : 1 ≤ dist) (hwindow : dist ≤ 131071) (hinside : dist ≤ n + ls.length)
    (hagree : Agree m (n + ls.length - dist) (n + ls.length) best) (h : Stream m len (n + ls.length + best) rest) :
    Stream m len n (matchBytes ls best (BitVec.ofNat 17 dist) ++ rest) := by
  obtain ⟨htoken, hnotFinal, hwf, hlits, hmatchLen, hdist⟩ :=
    assembleMatch_carries (ls := ls) (len := best) (BitVec.ofNat 17 dist) (by omega) h4 (by omega)
  have hd : (BitVec.ofNat 17 dist).toNat = dist := by rw [BitVec.toNat_ofNat]; omega
  rw [hd] at hdist
  refine .token ⟨htoken, hwf, ?_, fun _ => ⟨?_, ?_, ?_⟩⟩ (encode_assembleMatch _ h4) (fun h => ?_) ?_
  · rwa [hlits]
  · rwa [hdist]
  · rwa [hdist, hlits]
  · rwa [hdist, hlits, hmatchLen]
  · rw [hnotFinal] at h; cases h
  · rwa [hlits, hmatchLen]

theorem isToken_of_isFinal {i : Instr} (h : i.isFinal = true) : i.isToken = true ∧ matchLen i = 0 := by
  cases i
  case lX | lS => exact ⟨rfl, rfl⟩
  all_goals cases h

/-- The token without a match at the end of a stream (R169). -/
theorem stream_headBytes {m : Memory} {n : Nat} {ls : List Byte} (hls : m.slice n ls.length = some ls)
    (hlen : ls.length < 4294967296) (hne : ls ≠ []) : Stream m (n + ls.length) n (headBytes 0 0 ls) := by
  obtain ⟨i, rfl, hfinal, hwf, hlits, -⟩ := (assemblerKeepsValues ls 4 0 (by omega)).2 hne
  obtain ⟨htoken, hmatchLen⟩ := isToken_of_isFinal hfinal
  rw [← List.append_nil (headBytes 0 0 ls)]
  refine .token ⟨htoken, hwf, ?_, fun h => ?_⟩ (encode_assembleFinal ls) (fun _ => rfl) ?_
  · rwa [hlits]
  · rw [hfinal] at h; cases h
  · rw [hlits, hmatchLen]; exact .done

/-! ## The first token (R102, R172) -/

theorem le_mkTag {run hi code : Nat} (h1 : 1 ≤ run) (h : run * 32 + hi * 16 + code < 256) :
    32 ≤ (mkTag run hi code).toNat := by
  rw [(eq_mkTag_iff_toNat h).1 rfl]
  omega

/-- The tag of a token with literals is at least 32 (R91, R94). -/
theorem tag_of_lits {i : Instr} {used : List Byte} (hwf : i.wf = true) (hne : lits i ≠ []) (h : encode i = some used) :
    ∃ tag rest, used = tag :: rest ∧ 32 ≤ tag.toNat := by
  cases i
  case lmXX _ _ dist | lmXS _ _ dist | lmSX _ _ dist | lmSS _ _ dist =>
    simp only [Instr.wf, Bool.and_eq_true, shortRun_iff] at hwf
    have hhi := distHi_lt dist
    cases h
    exact ⟨_, _, rfl, le_mkTag (by omega) (by omega)⟩
  case lX | lS =>
    simp only [Instr.wf, shortRun_iff] at hwf
    cases h
    exact ⟨_, _, rfl, le_mkTag (by omega) (by omega)⟩
  all_goals exact absurd rfl hne

/-- An L token carries literals (R94). -/
theorem lits_ne_nil_of_isFinal {i : Instr} (hwf : i.wf = true) (h : i.isFinal = true) : lits i ≠ [] := by
  cases i
  case lX _ ls => rintro rfl; exact absurd (longRun_iff.1 hwf).1 (by decide)
  case lS _ ls => rintro rfl; exact absurd (shortRun_iff.1 hwf).1 (by decide)
  all_goals cases h

/-- The first token of a stream carries literals: nothing stands before it that a match could repeat (R102). -/
theorem stream_first_tag {m : Memory} {len : Nat} {bs : List Byte} (h : Stream m len 0 bs) (hlen : 0 < len) :
    ∃ tag rest, bs = tag :: rest ∧ 32 ≤ tag.toNat := by
  cases h with
  | done => exact absurd hlen (Nat.lt_irrefl 0)
  | token copies encoded last more =>
    rename_i i used rest
    obtain ⟨-, hwf, -, hrepeats⟩ := copies
    have hne : lits i ≠ [] := by
      cases hf : i.isFinal with
      | true => exact lits_ne_nil_of_isFinal hwf hf
      | false =>
        obtain ⟨hpos, hinside, -⟩ := hrepeats hf
        exact List.length_pos_iff.1 (by omega)
    obtain ⟨tag, tail, rfl, htag⟩ := tag_of_lits hwf hne encoded
    exact ⟨tag, tail ++ rest, rfl, htag⟩

/-! ## A running COMPRESS and its end -/

/-- What a COMPRESS begun in `s0` has reached in `s` between two decisions: the bytes written so far make, before any stream for
the input from the pending literals on, a stream for the whole input; OUT is untouched behind the clobber zone of `op` (R63). -/
structure Compressing (s0 s : State) : Prop where
  frame : SameBut [.head, .tail, .enc, .mf, .status, .result, .outMem, .draws] s0 s
  data : DataWf s
  inv : EncoderInv s
  kept : ∀ a, s.encOp + 15 ≤ a → s.outMem.byte? a = s0.outMem.byte? a
  stream : ∃ written, s.outMem.slice 0 s.encOp = some written ∧
    ∀ rest, Stream s0.inMem s0.inN (s.pN - s.runN) rest → Stream s0.inMem s0.inN 0 (written ++ rest)

/-- What a COMPRESS begun in `s0` has left in `s` when it has ended (R63, R171 to R173). -/
structure Compressed (s0 s : State) : Prop where
  done : s.status = .done
  frame : SameBut [.head, .tail, .enc, .mf, .status, .result, .outMem, .draws] s0 s
  small : s.result.toNat ≤ s0.inN + s0.inN / 16519 + 3
  empty : s0.inN = 0 → s.result = 0
  kept : ∀ a, s.result.toNat + 15 ≤ a → s.outMem.byte? a = s0.outMem.byte? a
  stream : ∃ written, s.outMem.slice 0 s.result.toNat = some written ∧ Stream s0.inMem s0.inN 0 written

section
variable {s0 s t : State}

theorem Compressing.inMem (h : Compressing s0 s) : s.inMem = s0.inMem := h.frame .inMem (by decide)
theorem Compressing.inN (h : Compressing s0 s) : s.inN = s0.inN := congrArg BitVec.toNat (h.frame .inLen (by decide))

theorem launchCompress_compressing (hw : DataWf s) (h : CompressReady s) : Compressing s (launchCompress s) where
  frame := (sameBut_launchCompress s).mono (by decide)
  data := launchCompress_dataWf hw
  inv := launchCompress_encoderInv h
  kept _ _ := rfl
  stream := ⟨[], rfl, fun _ h => h⟩

/-- A literal is written later: the pending literals begin where they began. -/
theorem TakesLiteral.compressing (h : TakesLiteral s t) (hs : Compressing s0 s)
    (hf : SameBut [.head, .tail, .enc, .mf, .outMem, .draws] s t) (hw : DataWf t) (hi : EncoderInv t) :
    Compressing s0 t := by
  obtain ⟨hp, hrun, hop, hout⟩ := h
  refine ⟨hs.frame.trans (hf.mono (by decide)), hw, hi, ?_, ?_⟩ <;> rw [hop, hout]
  · exact hs.kept
  · rw [hp, hrun, Nat.add_sub_add_right]
    exact hs.stream

/-- A match is written with the pending literals before it, as one token of the stream. -/
theorem TakesMatch.compressing {ls : List Byte} {best dist : Nat} (h : TakesMatch ls best dist s t)
    (hs : Compressing s0 s) (hf : SameBut [.head, .tail, .enc, .mf, .outMem, .draws] s t) (hw : DataWf t)
    (hi : EncoderInv t) : Compressing s0 t := by
  obtain ⟨hls, h4, hpos, hwindow, hinside, hagree, hp, hrun, hop, hholds, houtside⟩ := h
  refine ⟨hs.frame.trans (hf.mono (by decide)), hw, hi, fun a ha => ?_, ?_⟩
  · rw [houtside a (.inr ha), hs.kept a (by omega)]
  · obtain ⟨written, hwritten, hstream⟩ := hs.stream
    have hrp := hs.inv.run
    have hlen := slice_length hls
    have hN := inN_lt t
    have hpt := hi.pos
    refine ⟨written ++ matchBytes ls best (BitVec.ofNat 17 dist), ?_, fun rest hrest => ?_⟩
    · rw [hop]
      refine slice_append ?_ (by rw [Nat.zero_add]; exact hholds)
      rw [← hwritten]
      exact slice_congr fun k hk => houtside _ (.inl (by omega))
    · rw [List.append_assoc]
      rw [hs.inMem] at hls hagree
      have hend : s.pN - s.runN + ls.length = s.pN := by omega
      refine hstream _ (stream_matchBytes (by rw [hlen]; exact hls) (by omega) h4 (by omega) hpos hwindow ?_ ?_ ?_) <;>
        rw [hend]
      · exact hinside
      · exact hagree
      · rwa [hp, hrun, Nat.sub_zero] at hrest

/-- A DECIDE of a running COMPRESS carries it on. -/
theorem decideOp_compressing (hs : Compressing s0 s) (hp : s.pN < s.inN) :
    ∃ t, decideOp s = .ok t ∧ Compressing s0 t := by
  obtain ⟨t, ht, htakes⟩ := decideOp_takes hs.inv hp
  obtain ⟨-, n, u, v, hd⟩ := decideOp_decides ht
  have hf := hd.frame hp
  have hw := hd.dataWf hs.data
  have hi := hd.encoderInv hp hs.data hs.inv
  refine ⟨t, ht, ?_⟩
  rcases htakes with hl | ⟨ls, best, dist, hm⟩
  · exact hl.compressing hs hf hw hi
  · exact hm.compressing hs hf hw hi

/-- What EMIT_FINAL has left before the command ends (R169): the stream is whole, and short enough. -/
structure StreamWhole (s0 t : State) : Prop where
  small : t.encOp ≤ s0.inN + s0.inN / 16519 + 3
  empty : s0.inN = 0 → t.encOp = 0
  kept : ∀ a, t.encOp + 15 ≤ a → t.outMem.byte? a = s0.outMem.byte? a
  stream : ∃ written, t.outMem.slice 0 t.encOp = some written ∧ Stream s0.inMem s0.inN 0 written

theorem Compressing.streamWhole (hs : Compressing s0 s) (hp : s.pN = s.inN) (h0 : s.runN = 0) : StreamWhole s0 s := by
  have hop := hs.inv.out
  rw [h0, Nat.sub_zero, hp, hs.inN] at hop
  obtain ⟨written, hwritten, hstream⟩ := hs.stream
  rw [h0, Nat.sub_zero, hp, hs.inN] at hstream
  refine ⟨by omega, fun hN => by omega, hs.kept, written, hwritten, ?_⟩
  rw [← List.append_nil written]
  exact hstream [] .done

theorem Writes.streamWhole {ls : List Byte} (h : Writes (headBytes 0 0 ls) (headExtent s.runN) s t)
    (hs : Compressing s0 s) (hp : s.pN = s.inN) (h0 : s.runN ≠ 0)
    (hls : s.inMem.slice (s.pN - s.runN) s.runN = some ls) : StreamWhole s0 t := by
  have hlen := slice_length hls
  have hrun := hs.inv.run
  have hopLe := hs.inv.out
  have hsN := hs.inN
  have hNlt := inN_lt s
  have hext := headExtent_le s.runN
  have hbound := finalToken_bound (x := s.pN - s.runN) (run := s.runN) s.enc.run.isLt
  rw [Nat.sub_add_cancel hrun, hp, hsN] at hbound
  rw [hp, hsN] at hopLe
  have hop : t.encOp = s.encOp + (1 + (optVlen (7 ≤ s.runN) (s.runN - 7) + s.runN)) := by
    rw [h.op, headBytes_length, hlen]
  obtain ⟨written, hwritten, hstream⟩ := hs.stream
  refine ⟨by omega, fun hN => by omega, fun a ha => ?_, written ++ headBytes 0 0 ls, ?_, hstream _ ?_⟩
  · rw [h.outside a (by omega), hs.kept a (by omega)]
  · rw [h.op]
    refine slice_append ?_ (by rw [Nat.zero_add]; exact h.holds)
    rw [← hwritten]
    exact slice_congr fun k hk => h.outside _ (.inl (by omega))
  · have hend : s.pN - s.runN + ls.length = s0.inN := by omega
    rw [← hend]
    refine stream_headBytes ?_ (by omega) (List.length_pos_iff.1 (by omega))
    rw [hlen, ← hs.inMem]
    exact hls

/-- The end of the command leaves the stream alone, whose clobber zone lies behind it (R63, R171). -/
theorem StreamWhole.compressed (h : StreamWhole s0 t)
    (hf : SameBut [.head, .tail, .enc, .mf, .status, .result, .outMem, .draws] s0 t) : Compressed s0 (finishCompress t) := by
  have hresult : (finishCompress t).result.toNat = t.encOp := by rw [finishCompress_result]
  have hkept (a : Nat) (ha : a < t.encOp ∨ t.encOp + 15 ≤ a) :
      (finishCompress t).outMem.byte? a = t.outMem.byte? a := by
    rw [finishCompress_outMem, Memory.byte?_scramble_outside ha]
  refine ⟨finishCompress_status t, hf.trans ((sameBut_finishCompress t).mono (by decide)), ?_, fun hN => ?_, ?_, ?_⟩
  · rw [hresult]; exact h.small
  · exact BitVec.toNat_inj.1 (hresult.trans (h.empty hN))
  · intro a ha
    rw [hresult] at ha
    rw [hkept a (.inr ha), h.kept a ha]
  · obtain ⟨written, hwritten, hstream⟩ := h.stream
    refine ⟨written, ?_, hstream⟩
    rw [hresult, ← hwritten]
    exact slice_congr fun k hk => hkept _ (.inl (by omega))

theorem Finishes.compressed (h : Finishes s t) (hs : Compressing s0 s) (hp : s.pN = s.inN) :
    Compressed s0 (finishCompress t) := by
  cases h with
  | nothing h0 => exact (hs.streamWhole hp h0).compressed hs.frame
  | token h0 hls hw => exact (hw.streamWhole hs hp h0 hls).compressed (hs.frame.trans (hw.emits.frame.mono (by decide)))

/-- A step of a running COMPRESS carries it on or ends it. -/
theorem encoderStep_compressing (hs : Compressing s0 s) :
    ∃ t, encoderStep s = .next t ∧ ((t.status = s.status ∧ Compressing s0 t) ∨ Compressed s0 t) := by
  have hpos := hs.inv.pos
  unfold encoderStep
  split
  · next hp =>
    obtain ⟨t, ht, hc⟩ := decideOp_compressing hs hp
    obtain ⟨-, n, u, v, hd⟩ := decideOp_decides ht
    exact ⟨t, congrArg (conclude s) ht, .inl ⟨hd.frame hp .status (by decide), hc⟩⟩
  · next hp =>
    obtain ⟨t, ht, hfin⟩ := emitFinalOp_finishes hs.inv (by omega)
    rw [show execEmitFinal s = .next t from congrArg (conclude s) ht]
    exact ⟨_, rfl, .inr (hfin.compressed hs (by omega))⟩

end

/-- A run of the busy core whose every step carries on or ends the command is carrying on or has ended. -/
theorem runBusy_until {f : State → Result} {Run End : State → Prop} (hend : ∀ s, End s → s.status = .done)
    (hf : ∀ s, Run s → ∃ t, f s = .next t ∧ ((t.status = s.status ∧ Run t) ∨ End t)) :
    ∀ (n : Nat) {s : State}, s.status = .busy → Run s →
      ∃ t, runBusy f n s = .next t ∧ ((t.status = .busy ∧ Run t) ∨ End t)
  | 0, s, hb, hs => ⟨s, rfl, .inl ⟨hb, hs⟩⟩
  | n + 1, s, hb, hs => by
    obtain ⟨u, hu, hcase⟩ := hf s hs
    rw [runBusy, hb]
    dsimp only
    rw [hu]
    rcases hcase with ⟨hst, hrun⟩ | hdone
    · exact runBusy_until hend hf n (hst.trans hb) hrun
    · exact ⟨u, runBusy_idle (by rw [hend u hdone]; decide), .inr hdone⟩

theorem exec_compress_eq {s : State} (h : CompressReady s) :
    exec .compress s = runBusy encoderStep (s.inN + 1) (launchCompress s) := by
  simp only [exec, execCompress, compressRefusal_none.2 h]

/-- A legal COMPRESS completes, and leaves a stream that stands for its input (R171 to R173). -/
theorem execCompress_compressed {s : State} (hw : DataWf s) (h : CompressReady s) :
    ∃ t, exec .compress s = .next t ∧ Compressed s t := by
  obtain ⟨t, ht, hcase⟩ := runBusy_until (fun _ (hu : Compressed s _) => hu.done) (fun _ => encoderStep_compressing)
    (s.inN + 1) (s := launchCompress s) rfl (launchCompress_compressing hw h)
  rw [← exec_compress_eq h] at ht
  have hdone := execCompress_done ht
  exact ⟨t, ht, hcase.resolve_left fun hb => nomatch hdone.symm.trans hb.1⟩

/-- Settles O31: every DECIDE carries the command on, and EMIT_FINAL with the end leaves RESULT inside the bound. -/
theorem compressCompletes : Obligations.CompressCompletes := by
  intro s hw h
  obtain ⟨t, ht, hc⟩ := execCompress_compressed hw h
  obtain ⟨-, hops, -⟩ := h
  have hN := hops.inLen_le
  have hsmall := hc.small
  refine ⟨t, ht, hc.done, ?_, hsmall, hc.empty, hc.kept, hc.frame⟩
  rw [BitVec.toInt_eq_toNat_of_lt (by omega)]
  exact Int.natCast_nonneg _

theorem execCompress_next_compressed {s t : State} (hw : DataWf s) (h : CompressReady s)
    (ht : exec .compress s = .next t) : Compressed s t := by
  obtain ⟨u, hu, hc⟩ := execCompress_compressed hw h
  cases ht.symm.trans hu
  exact hc

/-- Settles O34: the stream stands for the whole input, and its first token has nothing before it to repeat. -/
theorem firstTokenCarriesLiterals : Obligations.FirstTokenCarriesLiterals := by
  intro s t hw h hN ht
  obtain ⟨written, hslice, hstream⟩ := (execCompress_next_compressed hw h ht).stream
  obtain ⟨tag, rest, rfl, htag⟩ := stream_first_tag hstream hN
  refine ⟨tag, ?_, htag⟩
  have hlen := slice_length hslice
  exact byte?_of_slice (k := 0) hslice (by rw [← hlen]; exact Nat.succ_pos _)

end Sys2Proof.Proofs

/-! SUPPORT. What a token writes to OUT: its literals, and a match that repeats the output before it (R203, R208, R209); and where it
leaves `ip` (R100). -/

namespace Sys2Proof.Proofs

open Sys2Proof.Machine Sys2Proof.Safety

/-! ## Copies inside OUT -/

/-- A copy from before its destination repeats what stands there, bytes it has just written included (R70, R206). -/
theorem copyLoop_repeats {inM : Memory} : ∀ {n d s k : Nat} {out out' : Memory},
    copyLoop inM .output n d s out = .ok out' → s < d → k < n → out'.byte? (d + k) = out'.byte? (s + k)
  | n + 1, d, s, k, out, out', h, hsd, hk => by
    rw [copyLoop] at h
    split at h
    · cases h
    · next b hb =>
      split at h
      · cases h
      · next o ho =>
        cases k with
        | zero =>
          rw [Nat.add_zero, Nat.add_zero, copyLoop_outside h (.inl (Nat.lt_succ_self d)), Memory.byte?_set?_self ho,
            copyLoop_outside h (.inl (by omega)), Memory.byte?_set?_ne ho (by omega)]
          exact hb.symm
        | succ k =>
          have := copyLoop_repeats h (Nat.succ_lt_succ hsd) (Nat.lt_of_succ_lt_succ hk)
          rwa [Nat.add_assoc, Nat.add_assoc, Nat.add_comm 1 k] at this

/-- MATCHCOPY repeats the output `dist` before it, and leaves the output before it alone (R208, R209). -/
theorem matchcopyOp_repeats {len : Nat} {dist : BitVec 17} {s t : State} (h : matchcopyOp len dist s = .ok t)
    (hpos : 1 ≤ dist.toNat) :
    (∀ k, k < len → t.outMem.byte? (s.decOp + k) = t.outMem.byte? (s.decOp - dist.toNat + k)) ∧
      ∀ a, a < s.decOp → t.outMem.byte? a = s.outMem.byte? a := by
  obtain ⟨hle, ⟨-, hw⟩ | ⟨-, -, hb⟩ | ⟨h0, -⟩⟩ := matchcopyOp_ok h
  · refine ⟨fun k hk => ?_, fun a ha => wildcopyOp_outside hw (.inl ha)⟩
    obtain ⟨out, ho, rfl⟩ := wildcopyOp_ok hw
    simp only [State.clobber_outMem, State.withOut_outMem]
    rw [Memory.byte?_scramble_outside (.inl (by omega)), Memory.byte?_scramble_outside (.inl (by omega))]
    exact copyLoop_repeats ho (by omega) hk
  · obtain ⟨out, ho, rfl⟩ := bytecopyOp_ok hb
    exact ⟨fun k hk => copyLoop_repeats ho (by omega) hk, fun a ha => copyLoop_outside ho (.inl ha)⟩
  · omega

theorem matchcopyOp_succeeds {len : Nat} {dist : BitVec 17} {s : State} (hc : s.outMem.covers (s.capN + 16) = true)
    (hcap : s.decOp + len ≤ s.capN) (hpos : 1 ≤ dist.toNat) (hd : dist.toNat ≤ s.decOp) :
    ∃ t, matchcopyOp len dist s = .ok t := by
  rw [Memory.covers_iff] at hc
  obtain ⟨out, ho⟩ := copyLoop_succeeds (inM := s.inMem) (src := .output) (n := len) (d := s.decOp)
    (s := s.decOp - dist.toNat) (out := s.outMem) (fun k hk => hc _ (by omega)) (fun k hk => hc _ (by omega))
  unfold matchcopyOp
  rw [if_neg (by omega)]
  split
  · rw [wildcopyOp, ho]; exact ⟨_, rfl⟩
  · rw [bytecopyOp, ho]; exact ⟨_, rfl⟩

/-! ## OUT reproduces a memory up to `op` -/

theorem checkRun_pass {run : Nat} {s : State} (hcap : s.decOp + run ≤ s.capN) (hin : s.ipN + run ≤ s.inN) :
    checkRun run s = .ok () := by
  rw [checkRun, if_neg (Nat.not_lt.2 hcap), if_neg (Nat.not_lt.2 hin)]

theorem checkMatch_pass {len : Nat} {s : State} (hcap : s.decOp + len ≤ s.capN) (hin : s.ipN + 2 ≤ s.inN) :
    checkMatch len s = .ok () := by
  rw [checkMatch, if_neg (Nat.not_lt.2 hcap), if_neg (Nat.not_lt.2 hin)]

theorem matchTail_of_matchcopyOp {len : Nat} {dist : BitVec 17} {s u : State} (hd : dist.toNat ≤ s.decOp)
    (hu : matchcopyOp len dist ((s.setIp (s.ipN + 2)).setDecDist dist) = .ok u) :
    matchTail len dist s = .ok (u.setDecOp (s.decOp + len)) := by
  have hrange : ¬((s.setIp (s.ipN + 2)).setDecDist dist).decOp < dist.toNat := Nat.not_lt.2 hd
  unfold matchTail
  dsimp only
  rw [if_neg hrange, hu]
  rfl

/-- OUT holds the bytes of `m` up to the output cursor. -/
def Reproduces (m : Memory) (s : State) : Prop := ∀ a, a < s.decOp → s.outMem.byte? a = m.byte? a

/-- Literals that are the next bytes of `m` (R203). -/
theorem tokenLits_reproduces {m : Memory} {ls : List Byte} {s : State} (hc : s.outMem.covers (s.capN + 16) = true)
    (hcap : s.decOp + ls.length ≤ s.capN) (hin : s.ipN + ls.length ≤ s.inN) (hr : Reproduces m s)
    (hls : m.slice s.decOp ls.length = some ls) : ∃ t, tokenLits ls s = .ok t ∧ Reproduces m t := by
  rw [Memory.covers_iff] at hc
  obtain ⟨out, ho⟩ := setBytes?_succeeds (bs := ls) (m := s.outMem) (a := s.decOp) fun k hk => hc _ (by omega)
  have hcheck : checkRun ls.length (s.setDecRun ls.length) = .ok () := checkRun_pass hcap hin
  have hok : ∃ t, tokenLits ls s = .ok t := by
    unfold tokenLits
    dsimp only
    rw [hcheck, show (s.setDecRun ls.length).outMem.setBytes? (s.setDecRun ls.length).decOp ls = some out from ho]
    exact ⟨_, rfl⟩
  obtain ⟨t, ht⟩ := hok
  refine ⟨t, ht, fun a ha => ?_⟩
  have hop := (tokenLits_advance ht).op
  obtain ⟨-, -, out, ho, rfl⟩ := tokenLits_ok ht
  rw [hop] at ha
  show (Memory.scramble _ _ _ out).byte? a = _
  rw [Memory.byte?_scramble_outside (.inl ha)]
  by_cases hlt : a < s.decOp
  · rw [Memory.byte?_setBytes?_outside ho (.inl hlt), hr a hlt]
  · obtain ⟨k, rfl⟩ := Nat.exists_eq_add_of_le (Nat.le_of_not_lt hlt)
    rw [byte?_setBytes?_inside ho (by omega), byte?_of_slice hls (by omega)]

/-- A match whose bytes repeat in `m` as well (R207, R209). -/
theorem tokenMatch_reproduces {m : Memory} {len : Nat} {dist : BitVec 17} {s : State}
    (hc : s.outMem.covers (s.capN + 16) = true) (hcap : s.decOp + len ≤ s.capN) (hin : s.ipN + 2 ≤ s.inN)
    (hr : Reproduces m s) (hpos : 1 ≤ dist.toNat) (hd : dist.toNat ≤ s.decOp)
    (hagree : Agree m (s.decOp - dist.toNat) s.decOp len) : ∃ t, tokenMatch len dist s = .ok t ∧ Reproduces m t := by
  obtain ⟨u, hu⟩ := matchcopyOp_succeeds (s := ((s.setDecLen len).setIp (s.ipN + 2)).setDecDist dist) hc hcap hpos hd
  have ht : tokenMatch len dist s = .ok (u.setDecOp (s.decOp + len)) := by
    unfold tokenMatch
    dsimp only
    rw [checkMatch_pass (s := s.setDecLen len) hcap hin]
    exact matchTail_of_matchcopyOp (s := s.setDecLen len) hd hu
  refine ⟨_, ht, ?_⟩
  obtain ⟨hrepeats, hbefore⟩ := matchcopyOp_repeats hu hpos
  have hop := (tokenMatch_advance ht).op
  intro a
  rw [hop]
  induction a using Nat.strong_induction_on with
  | _ a ih =>
    intro ha
    by_cases hlt : a < s.decOp
    · exact (hbefore a hlt).trans (hr a hlt)
    · obtain ⟨k, rfl⟩ := Nat.exists_eq_add_of_le (Nat.le_of_not_lt hlt)
      obtain ⟨v, hfrom, hto⟩ := hagree k (by omega)
      calc u.outMem.byte? (s.decOp + k)
          = u.outMem.byte? (s.decOp - dist.toNat + k) := hrepeats k (by omega)
        _ = m.byte? (s.decOp - dist.toNat + k) := ih _ (by omega) (by omega)
        _ = m.byte? (s.decOp + k) := hfrom.trans hto.symm

/-! ## The two phases of a token -/

/-- The stream bytes of a token's literal phase (R92, R100). -/
def litSpan : Instr → Nat
  | .lmXX l .. | .lmXS l .. | .lX _ l => vlen (l.length - 7) + l.length
  | .lmSX l .. | .lmSS l .. | .lS _ l => l.length
  | _ => 0

/-- The stream bytes of a token's match phase (R92, R100). -/
def matchSpan : Instr → Nat
  | .mX x _ | .lmXX _ x _ | .lmSX _ x _ => vlen x + 2
  | .mS .. | .lmXS .. | .lmSS .. => 2
  | _ => 0

theorem byteLength_eq {i : Instr} (h : i.isToken = true) : i.byteLength = 1 + litSpan i + matchSpan i := by
  cases i
  case mX | mS | lmXX | lmXS | lmSX | lmSS | lX | lS =>
    simp only [Instr.byteLength, litSpan, matchSpan, Nat.add_assoc, Nat.add_zero]
  all_goals cases h

theorem encode_length {i : Instr} {used : List Byte} (h : encode i = some used) : used.length = i.byteLength := by
  cases i
  case mX => exact Laws.TokenLength.mX _ _ _ h
  case mS => exact Laws.TokenLength.mS _ _ _ h
  case lmXX => exact Laws.TokenLength.lmXX _ _ _ _ h
  case lmXS => exact Laws.TokenLength.lmXS _ _ _ _ h
  case lmSX => exact Laws.TokenLength.lmSX _ _ _ _ h
  case lmSS => exact Laws.TokenLength.lmSS _ _ _ _ h
  case lX => exact Laws.TokenLength.lX _ _ _ h
  case lS => exact Laws.TokenLength.lS _ _ _ h
  all_goals cases h

theorem skipVar_ipN {x : Nat} {s : State} {n : Nat} (h : s.ipN + (vlen x + n) ≤ s.inN) :
    (skipVar x s).ipN = s.ipN + vlen x := by
  have := inN_lt s
  exact ofNat_toNat_of_lt (by omega)

section
variable {m : Memory} {i : Instr} {s : State}

theorem litPart_reproduces (hc : s.outMem.covers (s.capN + 16) = true)
    (hcap : s.decOp + (lits i).length ≤ s.capN) (hin : s.ipN + litSpan i ≤ s.inN) (hr : Reproduces m s)
    (hls : m.slice s.decOp (lits i).length = some (lits i)) :
    ∃ t, litPart i s = .ok t ∧ Advance (lits i).length (litSpan i) s t ∧ Reproduces m t := by
  cases i
  case lmXX l _ _ | lmXS l _ _ | lX _ l =>
    have hskip := skipVar_ipN hin
    obtain ⟨t, ht, hrt⟩ := tokenLits_reproduces (s := skipVar (l.length - 7) s) hc hcap
      (by rw [hskip, Nat.add_assoc]; exact hin) hr hls
    exact ⟨t, ht, longLits_advance ht, hrt⟩
  case lmSX l _ _ | lmSS l _ _ | lS _ l =>
    obtain ⟨t, ht, hrt⟩ := tokenLits_reproduces hc hcap hin hr hls
    exact ⟨t, ht, tokenLits_advance ht, hrt⟩
  all_goals exact ⟨s, rfl, advance_refl s, hr⟩

theorem matchPart_reproduces (hc : s.outMem.covers (s.capN + 16) = true) (hcap : s.decOp + matchLen i ≤ s.capN)
    (hin : s.ipN + matchSpan i ≤ s.inN) (hr : Reproduces m s)
    (hrepeats : i.isFinal = false → 1 ≤ matchDist i ∧ matchDist i ≤ s.decOp ∧
      Agree m (s.decOp - matchDist i) s.decOp (matchLen i)) :
    ∃ t, matchPart i s = .ok t ∧ Advance (matchLen i) (matchSpan i) s t ∧ Reproduces m t := by
  cases i
  case mX x _ | lmXX _ x _ | lmSX _ x _ =>
    obtain ⟨hpos, hd, hagree⟩ := hrepeats rfl
    have hskip := skipVar_ipN hin
    obtain ⟨t, ht, hrt⟩ := tokenMatch_reproduces (s := skipVar x s) hc hcap
      (by rw [hskip, Nat.add_assoc]; exact hin) hr hpos hd hagree
    exact ⟨t, ht, longMatch_advance ht, hrt⟩
  case mS | lmXS | lmSS =>
    obtain ⟨hpos, hd, hagree⟩ := hrepeats rfl
    obtain ⟨t, ht, hrt⟩ := tokenMatch_reproduces hc hcap hin hr hpos hd hagree
    exact ⟨t, ht, tokenMatch_advance ht, hrt⟩
  all_goals exact ⟨s, rfl, advance_refl s, hr⟩

/-- A token that stands for the next bytes of `m` writes them (R220 to R227). -/
theorem tokenBody_reproduces (hcopies : Copies m s.decOp i) (hN : s.inN ≤ 2147483631)
    (hc : s.outMem.covers (s.capN + 16) = true)
    (hcap : s.decOp + (lits i).length + matchLen i ≤ s.capN) (hin : s.ipN + i.byteLength ≤ s.inN) (hr : Reproduces m s) :
    ∃ t, tokenBody i s = .ok t ∧ Advance ((lits i).length + matchLen i) i.byteLength s t ∧ Reproduces m t := by
  obtain ⟨htoken, -, hls, hrepeats⟩ := hcopies
  have hlen := byteLength_eq htoken
  have htag := takeTag_advance (tokenTag i) (s := s) (by omega)
  have hip : (takeTag (tokenTag i) s).ipN = s.ipN + 1 := (htag.ip hN (by omega)).1
  have hlitIn : (takeTag (tokenTag i) s).ipN + litSpan i ≤ (takeTag (tokenTag i) s).inN := by
    rw [hip]; show _ ≤ s.inN; omega
  have hlitCap : (takeTag (tokenTag i) s).decOp + (lits i).length ≤ (takeTag (tokenTag i) s).capN :=
    (Nat.le_add_right _ _).trans hcap
  obtain ⟨u, hu, hau, hru⟩ := litPart_reproduces (s := takeTag (tokenTag i) s) hc hlitCap hlitIn hr hls
  have hsu := htag.trans hau
  have hop : u.decOp = s.decOp + (lits i).length := hau.op
  have hcapN : u.capN = s.capN := congrArg BitVec.toNat hsu.outCap
  have hinN : u.inN = s.inN := congrArg BitVec.toNat hsu.inLen
  have hipu : u.ipN = s.ipN + (1 + litSpan i) := (hsu.ip hN (by omega)).1
  obtain ⟨t, ht, hat, hrt⟩ := matchPart_reproduces (i := i) (s := u)
    (by rw [hcapN, Memory.covers_of_addrs hsu.addrs]; exact hc) (by omega) (by omega) hru (by rw [hop]; exact hrepeats)
  have hst := hsu.trans hat
  rw [Nat.zero_add, ← hlen] at hst
  exact ⟨t, by rw [tokenBody, hu]; exact ht, hst, hrt⟩

end

end Sys2Proof.Proofs

/-! SUPPORT. The round trip (R102, R172): a DECOMPRESS that reads a stream for an input writes that input. -/

namespace Sys2Proof.Proofs

open Sys2Proof.Machine Sys2Proof.Safety

theorem stream_le {m : Memory} {len n : Nat} {bs : List Byte} (h : Stream m len n bs) : n ≤ len := by
  induction h with
  | done => exact le_rfl
  | token copies encoded last more ih => omega

/-- A running DECOMPRESS that has written the first `op` bytes of an input of length `len`, and whose stream stands for the rest
of it. -/
structure Reading (m : Memory) (len : Nat) (s : State) : Prop where
  inv : DecoderInv s
  cap : len ≤ s.capN
  written : Reproduces m s
  stream : ∃ bs, streamRest s = some bs ∧ Stream m len s.decOp bs

/-- A DECOMPRESS that has ended with the whole input. -/
structure Delivered (m : Memory) (len : Nat) (s : State) : Prop where
  done : s.status = .done
  result : s.result.toNat = len
  written : ∀ a, a < len → s.outMem.byte? a = m.byte? a

section
variable {m : Memory} {len : Nat} {s t : State}

/-- At the end of the stream the whole input is written (R210). -/
theorem Reading.finish (h : Reading m len s) (hend : s.decOp = len) : Delivered m len (finishDecompress s) := by
  refine ⟨finishDecompress_status s, by rw [finishDecompress_result]; exact hend, fun a ha => ?_⟩
  rw [finishDecompress_outMem, Memory.byte?_scramble_outside (.inl (by omega)), h.written a (by omega)]

/-- A token of the stream reads on (R201). -/
theorem Reading.token {i : Instr} {used rest : List Byte} (h : Reading m len s)
    (hrest : streamRest s = some (used ++ rest)) (hcopies : Copies m s.decOp i) (hused : encode i = some used)
    (hmore : Stream m len (s.decOp + (lits i).length + matchLen i) rest) :
    ∃ t, exec i s = .next t ∧ t.status = s.status ∧ Reading m len t := by
  obtain ⟨-, hlent, -⟩ := h.inv.buffers
  obtain ⟨hN, -⟩ := h.inv.operands
  have hip := h.inv.ip
  have hcap := h.cap
  have hle := stream_le hmore
  have hlen := encode_length hused
  have htotal := slice_length hrest
  rw [List.length_append] at htotal
  obtain ⟨t, ht, ha, hr⟩ := tokenBody_reproduces hcopies hN hlent (by omega) (by omega) h.written
  have hcapN : t.capN = s.capN := congrArg BitVec.toNat ha.outCap
  have hinN : t.inN = s.inN := congrArg BitVec.toNat ha.inLen
  have hmem : t.inMem = s.inMem := ha.frame .inMem (by decide)
  have hexec : exec i s = .next t := (exec_token hcopies.isToken s).trans (congrArg (conclude s) ht)
  have hstatus : t.status = s.status := ha.frame .status (by decide)
  refine ⟨t, hexec, hstatus, ha.decoderInv h.inv, hcap.trans hcapN.ge, hr, rest, ?_, ?_⟩
  · have hslice := slice_of_append hrest
    rwa [streamRest, hmem, hinN, (ha.ip hN hip).1, ← hlen, ← Nat.sub_sub]
  · rwa [ha.op, ← Nat.add_assoc]

/-- A step of such a DECOMPRESS reads on or ends with the whole input. -/
theorem decoderStep_reading (h : Reading m len s) :
    ∃ t, decoderStep s = .next t ∧ ((t.status = s.status ∧ Reading m len t) ∨ Delivered m len t) := by
  obtain ⟨bs, hrest, hstream⟩ := h.stream
  have hlen := slice_length hrest
  have hip := h.inv.ip
  generalize hop : s.decOp = n at hstream
  cases hstream with
  | done =>
    have hend : s.ipN = s.inN := by simp only [List.length_nil] at hlen; omega
    have hfinish := h.finish hop
    have hexit : decoderStep s = .next (finishDecompress s) := by
      rw [decoderStep, if_neg (by omega), loopExit, if_pos hend]
    exact ⟨_, hexit, .inr hfinish⟩
  | token copies encoded last more =>
    rename_i i used rest
    subst hop
    obtain ⟨t, ht, hst, hread⟩ := h.token hrest copies encoded more
    refine ⟨t, ?_, .inl ⟨hst, hread⟩⟩
    have hused := List.length_pos_iff.2 fun hnil => encode_ne_nil i (hnil ▸ encoded)
    have hdecode := (decode_eq_ok_iff copies.isToken copies.wf).2 ⟨last, used, encoded, rfl⟩
    rw [List.length_append] at hlen
    rw [decoderStep, if_pos (by omega), hrest]
    dsimp only
    rw [hdecode]
    exact (execToken_eq_exec copies.isToken s).trans ht

/-- At the launch the whole stream is left (R201). -/
theorem launchDecompress_streamRest (s : State) : streamRest (launchDecompress s) = s.inMem.slice 0 s.inN := by
  have hip : (launchDecompress s).ipN = 0 := rfl
  have hmem : (launchDecompress s).inMem = s.inMem := sameBut_launchDecompress s .inMem (by decide)
  have hin : (launchDecompress s).inLen = s.inLen := sameBut_launchDecompress s .inLen (by decide)
  rw [streamRest, hip, hmem, State.inN, hin, Nat.sub_zero]

/-- A legal DECOMPRESS of a stream for an input ends with that input. -/
theorem execDecompress_delivered (hr : DecompressReady s) (hcap : len ≤ s.capN) {bs : List Byte}
    (hbs : s.inMem.slice 0 s.inN = some bs) (hstream : Stream m len 0 bs) (ht : exec .decompress s = .next t) :
    Delivered m len t := by
  have hcapN : (launchDecompress s).capN = s.capN :=
    congrArg BitVec.toNat (sameBut_launchDecompress s .outCap (by decide))
  have hlaunch : Reading m len (launchDecompress s) :=
    ⟨launchDecompress_decoderInv hr, hcap.trans hcapN.ge, fun _ ha => absurd ha (Nat.not_lt_zero _), bs,
      (launchDecompress_streamRest s).trans hbs, hstream⟩
  obtain ⟨u, hu, hcase⟩ := runBusy_until (fun _ (hu : Delivered m len _) => hu.done) (fun _ => decoderStep_reading)
    (s.inN + 1) (s := launchDecompress s) rfl hlaunch
  rw [← exec_decompress_eq hr] at hu
  cases ht.symm.trans hu
  have hdone := execDecompress_done ht
  exact hcase.resolve_left fun hb => nomatch hdone.symm.trans hb.1

end

/-- Settles O33: what COMPRESS wrote is a stream for its input, and a DECOMPRESS of such a stream ends with the input. -/
theorem decompressOfCompressIsInput : Obligations.DecompressOfCompressIsInput := by
  intro s t u v hw hs ht hu hN hsame hcap hv
  obtain ⟨written, hwritten, hstream⟩ := (execCompress_next_compressed hw hs ht).stream
  have hslice : u.inMem.slice 0 u.inN = some written := by
    rw [← hwritten, ← hN]
    exact slice_congr fun k hk => hsame _ (by omega)
  obtain ⟨-, hresult, hout⟩ := execDecompress_delivered hu hcap hslice hstream hv
  exact ⟨hresult, hout⟩

end Sys2Proof.Proofs

/-! SUPPORT. The stream as the Decoder's operations read it (R25, R202, R204): what is left of it behind a fetch, and DECVAR as
VARINT_DEC over it. -/

namespace Sys2Proof.Proofs

open Sys2Proof.Machine Sys2Proof.Safety

/-! ## The stream that is left -/

section
variable {s : State} {bs tail : List Byte} {x : Nat}

theorem streamRest_length (h : streamRest s = some bs) : bs.length = s.inN - s.ipN := slice_length h

theorem setIp_ipN (s : State) : s.setIp s.ipN = s := by
  simp only [State.setIp, State.ipN, Word.ofNat, BitVec.ofNat_toNat, BitVec.setWidth_eq]
  rfl

/-- The byte at `ip`, and the stream behind it (R202). -/
theorem fetchOp_of_cons {b : Byte} (h : streamRest s = some (b :: bs)) :
    fetchOp s = .ok (b, s.setIp (s.ipN + 1)) := by
  have hlen := streamRest_length h
  rw [List.length_cons] at hlen
  have hb : s.inMem.byte? s.ipN = some b := byte?_of_slice (k := 0) h (by omega)
  rw [fetchOp, if_neg (by omega), hb]

theorem fetchOp_of_end (h : s.inN ≤ s.ipN) : fetchOp s = .error (.raise .eField) := if_pos h

/-- The cursor in front of the last bytes of the stream. -/
theorem ipN_setIp_sub (s : State) (n : Nat) : (s.setIp (s.inN - n)).ipN = s.inN - n :=
  ofNat_toNat_of_lt ((Nat.sub_le _ _).trans_lt (inN_lt s))

/-- With the cursor in front of the last bytes of the stream, these are left. -/
theorem streamRest_setIp_sub {used : List Byte} (h : streamRest s = some (used ++ tail)) :
    streamRest (s.setIp (s.inN - tail.length)) = some tail := by
  have hlen := streamRest_length h
  have hslice := slice_of_append h
  rw [List.length_append] at hlen
  rw [streamRest, ipN_setIp_sub]
  change s.inMem.slice _ (s.inN - (s.inN - tail.length)) = _
  rw [Nat.sub_sub_self (by omega)]
  cases tail with
  | nil => rfl
  | cons b tail =>
    rw [List.length_cons] at hlen ⊢
    have hip : s.inN - (tail.length + 1) = s.ipN + used.length := by omega
    rw [hip, ← hslice]
    congr 1
    omega

/-! ## DECVAR (R204) -/

/-- DECVAR reads the stream as VARINT_DEC does (R96). -/
theorem decvarLoop_eq : ∀ {n i x : Nat} {s : State} {bs : List Byte}, streamRest s = some bs → s.ipN ≤ s.inN →
    decvarLoop n i x s = (varintDecLoop n i bs).elim (.error (.raise .eField)) fun r =>
      .ok (x + r.1, s.setIp (s.inN - r.2.length))
  | 0, i, x, s, bs, h, hip => by
    have hend : s.inN - bs.length = s.ipN := by rw [streamRest_length h]; omega
    rw [decvarLoop, varintDecLoop, Option.elim_some, hend, setIp_ipN, Nat.add_zero]
  | n + 1, i, x, s, [], h, hip => by
    have hlen := streamRest_length h
    rw [List.length_nil] at hlen
    rw [decvarLoop, fetchOp_of_end (by omega)]
    rfl
  | n + 1, i, x, s, c :: bs, h, hip => by
    have hlen := streamRest_length h
    rw [List.length_cons] at hlen
    have hnext : s.inN - bs.length = s.ipN + 1 := by omega
    have hrest : streamRest (s.setIp (s.ipN + 1)) = some bs := by
      rw [← hnext]
      exact streamRest_setIp_sub (used := [c]) h
    have hip' : (s.setIp (s.ipN + 1)).ipN ≤ (s.setIp (s.ipN + 1)).inN := by
      rw [← hnext, ipN_setIp_sub]
      exact Nat.sub_le _ _
    have ih := decvarLoop_eq (n := n) (i := i + 1) (x := x + c.toNat <<< (7 * i)) hrest hip'
    rw [decvarLoop, varintDecLoop, fetchOp_of_cons h]
    dsimp only
    split
    · rw [Option.elim_some, hnext]
    · rw [ih]
      cases varintDecLoop n (i + 1) bs with
      | none => rfl
      | some r => simp only [Option.elim_some, Nat.add_assoc]; rfl

theorem decvarOp_eq (h : streamRest s = some bs) (hip : s.ipN ≤ s.inN) :
    decvarOp s = (varintDec bs).elim (.error (.raise .eField)) fun r => .ok (r.1, s.setIp (s.inN - r.2.length)) := by
  rw [decvarOp, decvarLoop_eq h hip, varintDec]
  simp only [Nat.zero_add]

/-- Where the stream is at its end, DECVAR's first fetch raises. -/
theorem decvarOp_of_end (h : s.inN ≤ s.ipN) : decvarOp s = .error (.raise .eField) := by
  rw [decvarOp, decvarLoop, fetchOp_of_end h]

/-- VARINT_DEC takes 1 to 5 bytes off its stream, and its result is exact (R96, R204). -/
theorem varintDec_bounds (h : varintDec bs = some (x, tail)) :
    x ≤ 68990025855 ∧ ∃ used, bs = used ++ tail ∧ 1 ≤ used.length ∧ used.length ≤ 5 := by
  obtain ⟨used, hw, rfl, rfl⟩ := varintDec_eq_some_iff.1 h
  obtain ⟨init, c, rfl, -, hlen, -⟩ := varintWhole_iff.1 hw
  have hle := varintValue_le (init ++ [c])
  have hpow : 128 ^ (init ++ [c]).length ≤ 128 ^ 5 := Nat.pow_le_pow_right (by decide) (by simpa using hlen)
  refine ⟨by omega, _, rfl, ?_, ?_⟩ <;> rw [List.length_append, List.length_singleton] <;> omega

end

/-! ## FETCH and DECVAR as instructions -/

/-- An operation that raises an error ends its instruction in the error exit (R241, R244). -/
theorem endsInError_conclude {s : State} {r : Except Stop State} {c : Cause} (h : r = .error (.raise c)) :
    EndsInError s (conclude s r) := by
  subst h
  exact endsInError_errorExit s

theorem sameBut_setIp_withRet (s : State) (n : Nat) (v : Ret) : SameBut [.dec, .ret] s ((s.setIp n).withRet v) :=
  ((sameBut_withDec s _).mono (by decide)).trans ((sameBut_withRet _ v).mono (by decide))

/-- Settles O37: the two cases of FETCH. -/
theorem fetchEffect : Obligations.FetchEffect := by
  refine fun s => ⟨fun b hlt hb => ?_, fun hle => ?_⟩
  · have hfetch : fetchOp s = .ok (b, s.setIp (s.ipN + 1)) := by rw [fetchOp, if_neg (by omega), hb]
    refine ⟨(s.setIp (s.ipN + 1)).withRet (.byte b), ?_, rfl,
      ofNat_toNat_of_lt (Nat.lt_of_le_of_lt hlt (inN_lt s)), rfl, sameBut_setIp_withRet s _ _⟩
    rw [exec, execFetch, hfetch]
    rfl
  · rw [exec, execFetch, fetchOp_of_end hle]
    exact endsInError_errorExit s

/-- Settles O38: DECVAR reads what VARINT_DEC reads, and raises where that reads nothing. -/
theorem decvarReadsStream : Obligations.DecvarReadsStream := by
  refine fun s bs hrest => ⟨fun x tail hvar => ?_, fun hvar => ?_⟩
  · obtain ⟨hx, used, hused, h1, h5⟩ := varintDec_bounds hvar
    have hlen := streamRest_length hrest
    rw [hused, List.length_append] at hlen
    have hip := ipN_setIp_sub s tail.length
    refine ⟨(s.setIp (s.inN - tail.length)).withRet (.value x), ?_, rfl, ?_, ?_, ?_, hx, rfl,
      sameBut_setIp_withRet s _ _⟩
    · rw [exec, execDecvar, decvarOp_eq hrest (by omega), hvar]
      rfl
    all_goals
      rw [show ((s.setIp (s.inN - tail.length)).withRet (.value x)).ipN = s.inN - tail.length from hip]
      omega
  · have hraise : decvarOp s = .error (.raise .eField) := by
      rcases Nat.le_total s.inN s.ipN with hend | hip
      · exact decvarOp_of_end hend
      · rw [decvarOp_eq hrest hip, hvar]
        rfl
    rw [exec, execDecvar, hraise]
    exact endsInError_errorExit s

end Sys2Proof.Proofs

/-! SUPPORT. The Decoder's phases and the token forms (R201, R203, R207, R220 to R227): on the stream a token was decoded from, each
phase does what the token's own part does. -/

namespace Sys2Proof.Proofs

open Sys2Proof.Machine Sys2Proof.Safety

/-! ## A phase behind its length field -/

/-- A copy from IN stores the bytes that stand there (R205). -/
theorem copyLoop_input_eq {inM : Memory} : ∀ {ls : List Byte} {d a : Nat} {out : Memory},
    inM.slice a ls.length = some ls →
    copyLoop inM .input ls.length d a out = (out.setBytes? d ls).elim (.error .outAddress) .ok
  | [], _, _, _, _ => rfl
  | b :: ls, d, a, out, h => by
    have hb : inM.byte? a = some b := byte?_of_slice (k := 0) h (Nat.succ_pos _)
    have hls : inM.slice (a + 1) ls.length = some ls := slice_of_append (bs := [b]) h
    rw [List.length_cons, copyLoop, Memory.setBytes?]
    simp only [sourceOf, hb]
    cases out.set? d b with
    | none => rfl
    | some o => exact copyLoop_input_eq hls

section
variable {s : State}

/-- A literal run of known length copies the bytes the token carries (R203). -/
theorem litphaseTail_eq_tokenLits {ls : List Byte} (h : s.inMem.slice s.ipN ls.length = some ls) :
    litphaseTail ls.length (s.setDecRun ls.length) = tokenLits ls s := by
  have h : (s.setDecRun ls.length).inMem.slice (s.setDecRun ls.length).ipN ls.length = some ls := h
  unfold litphaseTail tokenLits
  dsimp only
  generalize s.setDecRun ls.length = u at h
  cases checkRun ls.length u with
  | error e => rfl
  | ok _ =>
    rw [wildcopyOp, copyLoop_input_eq h]
    cases u.outMem.setBytes? u.decOp ls <;> rfl

/-- A match of known length has the distance that stands behind `ip` (R207). -/
theorem matchphaseTail_eq_tokenMatch {len : Nat} {dist : BitVec 17} (h : distAt s = some dist) :
    matchphaseTail len (s.setDecLen len) = tokenMatch len dist s := by
  have h : distAt (s.setDecLen len) = some dist := h
  unfold matchphaseTail tokenMatch
  dsimp only
  generalize s.setDecLen len = u at h
  generalize distAt u = field at h
  subst h
  cases checkMatch len u <;> rfl

/-- The distance field, byte by byte (R99, R207). -/
theorem distAt_of_bytes {lo hi : Byte} (hlo : s.inMem.byte? s.ipN = some lo) (hhi : s.inMem.byte? (s.ipN + 1) = some hi) :
    distAt s = some (mkDist (tagDistHi s.dec.tag) lo hi) := by
  have hv : s.inMem.memRead s.ipN 2 = some (lo.toNat + 256 * hi.toNat) := by
    simp only [Memory.memRead, hlo, hhi, Nat.mul_zero, Nat.add_zero]
  have hsum : tagDistHi s.dec.tag * 65536 + (lo.toNat + 256 * hi.toNat) =
      tagDistHi s.dec.tag * 65536 + hi.toNat * 256 + lo.toNat := by omega
  rw [distAt, hv, mkDist, ← hsum]

theorem distAt_of_decodeDist {bs rest : List Byte} {dist : BitVec 17} (hrest : streamRest s = some bs)
    (h : decodeDist s.dec.tag bs = some (dist, rest)) : distAt s = some dist := by
  unfold decodeDist at h
  split at h
  · next lo hi tail =>
    cases h
    have hlen := streamRest_length hrest
    simp only [List.length_cons] at hlen
    exact distAt_of_bytes (byte?_of_slice (k := 0) hrest (by omega)) (byte?_of_slice (k := 1) hrest (by omega))
  · cases h

theorem tokenLits_of_lt {ls : List Byte} (h : s.capN < s.decOp + ls.length) :
    tokenLits ls s = .error (.raise .eOut) := by
  have hcheck : checkRun ls.length (s.setDecRun ls.length) = .error (.raise .eOut) := if_pos h
  unfold tokenLits
  dsimp only
  rw [hcheck]

theorem tokenMatch_of_lt {len : Nat} {dist : BitVec 17} (h : s.capN < s.decOp + len) :
    tokenMatch len dist s = .error (.raise .eOut) := by
  have hcheck : checkMatch len (s.setDecLen len) = .error (.raise .eOut) := if_pos h
  unfold tokenMatch
  dsimp only
  rw [hcheck]

/-! ## The length fields -/

/-- LITPHASE behind the run of its tag (R203). -/
theorem litphaseOp_of_runField {run ip : Nat} (htag : 32 ≤ s.dec.tag.toNat) (hip : s.ipN ≤ s.inN)
    (h : RunField s run ip) : litphaseOp s = litphaseTail run ((s.setIp ip).setDecRun run) := by
  rw [litphaseOp, if_neg (Nat.not_lt.2 htag)]
  rcases h with ⟨h7, rfl, rfl⟩ | ⟨h7, bs, x, rest, hrest, hvar, rfl, hend⟩
  · rw [if_neg h7, setIp_ipN]
  · obtain rfl : ip = s.inN - rest.length := by omega
    rw [if_pos h7, decvarOp_eq hrest hip, hvar]
    rfl

/-- MATCHPHASE behind the length of its tag (R207). -/
theorem matchphaseOp_of_lenField {len ip : Nat} (hip : s.ipN ≤ s.inN) (h : LenField s len ip) :
    matchphaseOp s = matchphaseTail len ((s.setIp ip).setDecLen len) := by
  rw [matchphaseOp]
  rcases h with ⟨h15, rfl, rfl⟩ | ⟨h15, bs, x, rest, hrest, hvar, rfl, hend⟩
  · rw [if_neg h15, setIp_ipN]
    rfl
  · obtain rfl : ip = s.inN - rest.length := by omega
    rw [if_pos h15, decvarOp_eq hrest hip, hvar]
    rfl

/-- Behind a varint VARINT_ENC writes, a token's cursor stands where DECVAR's does (R97, R204). -/
theorem skipVar_eq_setIp {x : Nat} {bs tail : List Byte} (hrest : streamRest s = some bs)
    (hvar : varintDec bs = some (x, tail)) (hx : x < 34630287488) : skipVar x s = s.setIp (s.inN - tail.length) := by
  have hlen := streamRest_length hrest
  rw [(varintDec_eq_some_iff_of_lt hx).1 hvar, List.length_append] at hlen
  rw [skipVar, vlen]
  have hpos : 1 ≤ (varintEnc x).length := by
    have hnone := varintEnc_length_le_iff (n := 0) (x := x)
    simp only [varintBound] at hnone
    omega
  congr 1
  omega

/-- A varint that VARINT_ENC does not write announces more literals than any capacity (R97, R203). -/
theorem longLits_eq {ls bs tail : List Byte} (hrest : streamRest s = some bs)
    (hvar : varintDec bs = some (ls.length - 7, tail)) : longLits ls s = tokenLits ls (s.setIp (s.inN - tail.length)) := by
  rcases Nat.lt_or_ge (ls.length - 7) 34630287488 with hx | hx
  · rw [longLits, skipVar_eq_setIp hrest hvar hx]
  · have hcap := capN_lt s
    rw [longLits, tokenLits_of_lt (s := skipVar _ s), tokenLits_of_lt (s := s.setIp _)]
    all_goals
      change s.capN < s.decOp + _
      omega

/-- The same for the length of a match (R98, R207). -/
theorem longMatch_eq {x : Nat} {dist : BitVec 17} {bs tail : List Byte} (hrest : streamRest s = some bs)
    (hvar : varintDec bs = some (x, tail)) :
    longMatch x dist s = tokenMatch (19 + x) dist (s.setIp (s.inN - tail.length)) := by
  rcases Nat.lt_or_ge x 34630287488 with hx | hx
  · rw [longMatch, skipVar_eq_setIp hrest hvar hx]
    rfl
  · have hcap := capN_lt s
    rw [longMatch, longMatchLen, tokenMatch_of_lt (s := skipVar _ s), tokenMatch_of_lt (s := s.setIp _)]
    all_goals
      change s.capN < s.decOp + _
      omega

end

/-! ## The phases of a decoded token -/

/-- What the token forms with literals have in common, whichever way their run is written (R222 to R227). -/
structure LitForms (lit : List Byte → State → Except Stop State) (final : BitVec 5 → List Byte → Instr)
    (short : List Byte → BitVec 4 → BitVec 17 → Instr) (long : List Byte → Nat → BitVec 17 → Instr) : Prop where
  finalLit : ∀ low ls, litPart (final low ls) = lit ls
  finalMatch : ∀ low ls, matchPart (final low ls) = .ok
  shortLit : ∀ ls c d, litPart (short ls c d) = lit ls
  shortMatch : ∀ ls c d, matchPart (short ls c d) = Machine.shortMatch c d
  longLit : ∀ ls x d, litPart (long ls x d) = lit ls
  longMatch : ∀ ls x d, matchPart (long ls x d) = Machine.longMatch x d

theorem shortLits_forms : LitForms shortLits .lS .lmSS .lmSX := by constructor <;> intros <;> rfl
theorem longLits_forms : LitForms longLits .lX .lmXS .lmXX := by constructor <;> intros <;> rfl

section
variable {s t u : State} {i : Instr} {tag : Byte} {bs rest : List Byte}

/-- MATCHPHASE does what the match part of the token behind `ip` does. -/
theorem decodeMatch_matchphaseOp {short : BitVec 4 → BitVec 17 → Instr} {long : Nat → BitVec 17 → Instr}
    (hshort : ∀ c d, matchPart (short c d) = shortMatch c d) (hlong : ∀ x d, matchPart (long x d) = longMatch x d)
    (hrest : streamRest s = some bs) (hip : s.ipN ≤ s.inN)
    (h : decodeMatch s.dec.tag bs short long = .ok (i, rest)) : matchphaseOp s = matchPart i s := by
  rcases decodeMatch_eq_ok_iff.1 h with ⟨h15, dist, hdist, rfl⟩ | ⟨h15, x, tail, dist, hvar, hdist, rfl⟩
  · rw [matchphaseOp_of_lenField hip (.inl ⟨h15, rfl, rfl⟩), setIp_ipN,
      matchphaseTail_eq_tokenMatch (distAt_of_decodeDist hrest hdist), hshort]
    rfl
  · obtain ⟨-, used, rfl, -⟩ := varintDec_bounds hvar
    have hlen := streamRest_length hrest
    rw [List.length_append] at hlen
    have hfield : LenField s (19 + x) (s.inN - tail.length) := .inr ⟨h15, _, x, tail, hrest, hvar, rfl, by omega⟩
    rw [matchphaseOp_of_lenField hip hfield, hlong, longMatch_eq hrest hvar]
    exact matchphaseTail_eq_tokenMatch (distAt_of_decodeDist (streamRest_setIp_sub hrest) hdist)

/-- Behind its literals a token goes on with the stream that follows them. -/
theorem tokenLits_stream {ls tail : List Byte} (hrest : streamRest s = some (ls ++ tail)) (hip : s.ipN ≤ s.inN)
    (h : tokenLits ls s = .ok t) :
    streamRest t = some tail ∧ t.dec.tag = s.dec.tag ∧ t.inN = s.inN ∧ t.ipN + tail.length = t.inN := by
  have hlen := streamRest_length hrest
  have hslice := slice_of_append hrest
  have hN := inN_lt s
  have hframe := (tokenLits_advance h).frame
  have hm : t.inMem = s.inMem := hframe .inMem (by decide)
  have hinN : t.inN = s.inN := congrArg BitVec.toNat (hframe .inLen (by decide))
  have hdec : t.dec.ip = Word.ofNat (s.ipN + ls.length) ∧ t.dec.tag = s.dec.tag := by
    obtain ⟨-, -, out, -, rfl⟩ := tokenLits_ok h
    exact ⟨rfl, rfl⟩
  obtain ⟨hip', htag⟩ := hdec
  rw [List.length_append] at hlen
  have hipt : t.ipN = s.ipN + ls.length := by
    rw [State.ipN, hip']
    exact ofNat_toNat_of_lt (by omega)
  refine ⟨?_, htag, hinN, by omega⟩
  rw [streamRest, hm, hinN, hipt, ← Nat.sub_sub]
  exact hslice

/-- How R201 goes on behind LITPHASE: an L token has reached the end of the stream, any other token goes on with MATCHPHASE. -/
def GoesOn (i : Instr) (t : State) : Prop :=
  (t.ipN = t.inN ∧ matchPart i t = .ok t) ∨ (t.ipN ≠ t.inN ∧ matchphaseOp t = matchPart i t)

/-- The literals of a decoded token stand behind its run field, and what follows them decides how it goes on (R93, R201). -/
theorem decodeLits_goesOn {run : Nat} {lit : List Byte → State → Except Stop State}
    {final : BitVec 5 → List Byte → Instr} {short : List Byte → BitVec 4 → BitVec 17 → Instr}
    {long : List Byte → Nat → BitVec 17 → Instr} (hforms : LitForms lit final short long)
    (hrest : streamRest s = some bs) (hip : s.ipN ≤ s.inN) (h : decodeLits run s.dec.tag bs final short long = .ok (i, rest)) :
    ∃ ls, ls.length = run ∧ litPart i = lit ls ∧ s.inMem.slice s.ipN ls.length = some ls ∧
      ∀ t, tokenLits ls s = .ok t → GoesOn i t := by
  obtain ⟨ls, tail, hlen, rfl, hcase⟩ := decodeLits_eq_ok_iff.1 h
  have hslice : s.inMem.slice s.ipN ls.length = some ls := by
    obtain ⟨htotal, hbytes⟩ := slice_eq_some_iff.1 hrest
    rw [List.length_append] at htotal
    refine slice_eq_some_iff.2 ⟨rfl, fun k hk => ?_⟩
    rw [hbytes k (by omega), List.getElem?_append_left hk]
  refine ⟨ls, hlen, ?_, hslice, fun t ht => ?_⟩
  · rcases hcase with ⟨-, -, rfl⟩ | hmatch
    · exact hforms.finalLit _ ls
    · exact decodeMatch_ok (P := fun i => litPart i = lit ls) (hforms.shortLit ls) (hforms.longLit ls) hmatch
  · obtain ⟨htail, htag, hinN, hend⟩ := tokenLits_stream hrest hip ht
    rcases hcase with ⟨rfl, -, rfl⟩ | hmatch
    · exact .inl ⟨by simpa using hend, congrFun (hforms.finalMatch _ ls) t⟩
    · have hne : tail ≠ [] := by
        rintro rfl
        exact decodeMatch_nil_ne_ok hmatch
      have hpos := List.length_pos_iff.2 hne
      rw [← htag] at hmatch
      exact .inr ⟨by omega, decodeMatch_matchphaseOp (hforms.shortMatch ls) (hforms.longMatch ls) htail (by omega) hmatch⟩

/-- Behind its tag a decoded token is MATCHPHASE alone, or LITPHASE and what R201 lets follow it. -/
theorem decode_phases (h : decode (s.dec.tag :: bs) = .ok (i, rest)) (hrest : streamRest s = some bs)
    (hip : s.ipN ≤ s.inN) :
    (s.dec.tag.toNat < 32 ∧ litPart i s = .ok s ∧ matchphaseOp s = matchPart i s) ∨
    (32 ≤ s.dec.tag.toNat ∧ litphaseOp s = litPart i s ∧ ∀ t, litPart i s = .ok t → GoesOn i t) := by
  have hcode := tagRunCode_eq s.dec.tag
  rcases decode_cons_eq_ok_iff.1 h with ⟨h0, hmatch⟩ | ⟨h0, h7, hlits⟩ | ⟨h7, run, tail, hrun, hvar, hlits⟩
  · refine .inl ⟨by omega, ?_, ?_⟩
    · exact congrFun (decodeMatch_ok (P := fun i => litPart i = .ok) (fun _ _ => rfl) (fun _ _ => rfl) hmatch) s
    · exact decodeMatch_matchphaseOp (fun _ _ => rfl) (fun _ _ => rfl) hrest hip hmatch
  · obtain ⟨ls, hlen, hpart, hslice, hgo⟩ := decodeLits_goesOn shortLits_forms hrest hip hlits
    have hlit : litPart i s = tokenLits ls s := congrFun hpart s
    rw [hlit]
    refine .inr ⟨by omega, ?_, hgo⟩
    rw [litphaseOp_of_runField (by omega) hip (.inl ⟨h7, hlen, rfl⟩), setIp_ipN]
    exact litphaseTail_eq_tokenLits hslice
  · obtain ⟨-, used, rfl, -⟩ := varintDec_bounds hvar
    have htotal := streamRest_length hrest
    rw [List.length_append] at htotal
    have hipt := ipN_setIp_sub s tail.length
    obtain ⟨ls, rfl, hpart, hslice, hgo⟩ := decodeLits_goesOn (s := s.setIp (s.inN - tail.length)) longLits_forms
      (streamRest_setIp_sub hrest) (by rw [hipt]; exact Nat.sub_le _ _) hlits
    have hlit : litPart i s = tokenLits ls (s.setIp (s.inN - tail.length)) :=
      (congrFun hpart s).trans (longLits_eq hrest hvar)
    rw [hlit]
    refine .inr ⟨by omega, ?_, hgo⟩
    have hfield : RunField s ls.length (s.inN - tail.length) :=
      .inr ⟨h7, _, _, tail, hrest, hvar, by omega, by omega⟩
    rw [litphaseOp_of_runField (by omega) hip hfield]
    exact litphaseTail_eq_tokenLits hslice

/-! ## The tag of a decoded token -/

/-- A token with a match field has the tag it was read from (R91, R98, R99). -/
theorem decodeMatch_tokenTag {short : BitVec 4 → BitVec 17 → Instr} {long : Nat → BitVec 17 → Instr}
    (hshort : ∀ c d, tokenTag (short c d) = mkTag (tagRunCode tag) (distHi d) c.toNat)
    (hlong : ∀ x d, tokenTag (long x d) = mkTag (tagRunCode tag) (distHi d) 15)
    (h : decodeMatch tag bs short long = .ok (i, rest)) : tokenTag i = tag := by
  have hrun : tagRunCode tag < 8 := by have := tag.isLt; rw [tagRunCode_eq]; omega
  rcases decodeMatch_eq_ok_iff.1 h with ⟨-, dist, hdist, rfl⟩ | ⟨h15, x, tail, dist, -, hdist, rfl⟩
  · obtain ⟨hhi, -⟩ := decodeDist_eq_some_iff.1 hdist
    rw [hshort]
    exact ((eq_mkTag_iff hrun).2 ⟨rfl, hhi, rfl⟩).symm
  · obtain ⟨hhi, -⟩ := decodeDist_eq_some_iff.1 hdist
    rw [hlong]
    exact ((eq_mkTag_long_iff hrun).2 ⟨rfl, hhi, h15⟩).symm

theorem decodeLits_tokenTag {run : Nat} {final : BitVec 5 → List Byte → Instr}
    {short : List Byte → BitVec 4 → BitVec 17 → Instr} {long : List Byte → Nat → BitVec 17 → Instr}
    (hfinal : ∀ low ls, ls.length = run → tokenTag (final low ls) = mkTag (tagRunCode tag) 0 low.toNat)
    (hshort : ∀ ls c d, ls.length = run → tokenTag (short ls c d) = mkTag (tagRunCode tag) (distHi d) c.toNat)
    (hlong : ∀ ls x d, ls.length = run → tokenTag (long ls x d) = mkTag (tagRunCode tag) (distHi d) 15)
    (h : decodeLits run tag bs final short long = .ok (i, rest)) : tokenTag i = tag := by
  have hrun : tagRunCode tag < 8 := by have := tag.isLt; rw [tagRunCode_eq]; omega
  obtain ⟨ls, tail, hlen, -, ⟨-, -, rfl⟩ | hmatch⟩ := decodeLits_eq_ok_iff.1 h
  · rw [hfinal _ _ hlen]
    exact ((eq_mkTag_low_iff hrun).2 ⟨rfl, rfl⟩).symm
  · exact decodeMatch_tokenTag (fun c d => hshort ls c d hlen) (fun x d => hlong ls x d hlen) hmatch

theorem decode_tokenTag (h : decode (tag :: bs) = .ok (i, rest)) : tokenTag i = tag := by
  rcases decode_cons_eq_ok_iff.1 h with ⟨h0, hmatch⟩ | ⟨-, -, hlits⟩ | ⟨h7, run, tail, -, -, hlits⟩
  · refine decodeMatch_tokenTag ?_ ?_ hmatch <;> intros <;> rw [h0] <;> rfl
  · exact decodeLits_tokenTag (fun _ _ hlen => hlen ▸ rfl) (fun _ _ _ hlen => hlen ▸ rfl) (fun _ _ _ hlen => hlen ▸ rfl)
      hlits
  · refine decodeLits_tokenTag ?_ ?_ ?_ hlits <;> intros <;> rw [h7] <;> rfl

/-! ## A token by its phases (R201) -/

/-- FETCH, and the beginning of the token (R23): what a token does with its tag. -/
theorem byPhases_eq (htag : s.inMem.byte? s.ipN = some tag) (hip : s.ipN < s.inN) : byPhases tag s =
    if tag.toNat < 32 then conclude (takeTag tag s) (matchphaseOp (takeTag tag s))
    else
      andThen (conclude (takeTag tag s) (litphaseOp (takeTag tag s))) fun b =>
        if b.status ≠ .busy ∨ b.ipN = b.inN then .next b else conclude b (matchphaseOp b) := by
  have hfetch : fetchOp s = .ok (tag, s.setIp (s.ipN + 1)) := by rw [fetchOp, if_neg (by omega), htag]
  have hexec : exec .fetch s = .next ((s.setIp (s.ipN + 1)).withRet (.byte tag)) := by
    rw [exec, execFetch, hfetch]
    rfl
  rw [byPhases, hexec]
  rfl

/-- The answer is a state the error exit left (R241). -/
def ErrorEnd (r : Result) : Prop := ∃ u, r = .next u ∧ u.status = .done ∧ u.result = 0xFFFFFFFF#32

theorem errorEnd_errorExit (s : State) : ErrorEnd (.next (errorExit s)) :=
  ⟨errorExit s, rfl, errorExit_status s, errorExit_result s⟩

/-- Both ways end alike: in the very same state, or both in an error. -/
def EndsAlike (r : Except Stop State) (q : Result) : Prop :=
  (∀ t, r = .ok t → q = .next t) ∧ ∀ c, r = .error (.raise c) → ErrorEnd q

theorem endsAlike_conclude (r : Except Stop State) (s : State) : EndsAlike r (conclude s r) :=
  ⟨fun t h => by rw [h]; rfl, fun c h => by rw [h]; exact errorEnd_errorExit s⟩

/-- What follows LITPHASE is the match part of the token, and nothing where an error has ended the command. -/
theorem endsAlike_phases (hbusy : s.status = .busy) (hgo : ∀ t, litPart i s = .ok t → GoesOn i t) :
    EndsAlike (phases (litPart i s) (matchPart i)) (andThen (conclude s (litPart i s)) fun b =>
      if b.status ≠ .busy ∨ b.ipN = b.inN then .next b else conclude b (matchphaseOp b)) := by
  cases hlit : litPart i s with
  | error e =>
    refine ⟨fun t h => (nomatch h), fun c h => ?_⟩
    cases h
    have hdone : (errorExit s).status ≠ .busy := by rw [errorExit_status]; decide
    rw [conclude_raise, andThen, if_pos (.inl hdone)]
    exact errorEnd_errorExit s
  | ok b =>
    obtain ⟨k, hk⟩ := litPart_advance hlit
    have hst : b.status = s.status := hk.frame .status (by decide)
    rw [conclude_ok, andThen, phases]
    rcases hgo b hlit with ⟨hend, hmatch⟩ | ⟨hmore, hmatch⟩
    · rw [if_pos (.inr hend), hmatch]
      exact endsAlike_conclude (.ok b) b
    · rw [if_neg (by simp [hst, hbusy, hmore]), hmatch]
      exact endsAlike_conclude _ b

/-- A decoded token ends as its phases do (R201, R220 to R227). -/
theorem endsAlike_byPhases (hbusy : s.status = .busy) (hip : s.ipN < s.inN)
    (htag : s.inMem.byte? s.ipN = some tag) (hrest : streamRest s = some bs) (h : decode bs = .ok (i, rest)) :
    EndsAlike (tokenBody i s) (byPhases tag s) := by
  have hlen := streamRest_length hrest
  obtain ⟨-, hbytes⟩ := slice_eq_some_iff.1 hrest
  obtain ⟨tag', bs, rfl⟩ : ∃ b tail, bs = b :: tail := List.exists_cons_of_length_pos (by omega)
  obtain rfl : tag' = tag := by
    have := hbytes 0 (by omega)
    rw [Nat.add_zero, htag] at this
    exact (Option.some.inj this).symm
  have hnext : s.ipN + 1 = s.inN - bs.length := by rw [List.length_cons] at hlen; omega
  have hrest' : streamRest (takeTag tag' s) = some bs := by
    have := streamRest_setIp_sub (used := [tag']) hrest
    rwa [← hnext] at this
  have hip' : (takeTag tag' s).ipN ≤ (takeTag tag' s).inN := by
    have := ipN_setIp_sub s bs.length
    rw [← hnext] at this
    change (s.setIp (s.ipN + 1)).ipN ≤ s.inN
    omega
  rw [byPhases_eq htag hip, tokenBody, decode_tokenTag h]
  rcases decode_phases (s := takeTag tag' s) h hrest' hip' with ⟨hlt, hlit, hmatch⟩ | ⟨hge, hlit, hgo⟩
  · rw [if_pos (show tag'.toNat < 32 from hlt), hlit, hmatch]
    exact endsAlike_conclude _ _
  · rw [if_neg (show ¬tag'.toNat < 32 from Nat.not_lt.2 hge), hlit]
    exact endsAlike_phases hbusy hgo

end

/-- Settles O47: phase by phase the token and the control of R201 do the same. -/
theorem tokenIsItsPhases : Obligations.TokenIsItsPhases := by
  intro s t bs i rest tag hbusy _ hip hrest hdecode htag ht
  obtain ⟨halike, herror⟩ := endsAlike_byPhases hbusy hip htag hrest hdecode
  obtain ⟨htoken, -⟩ := decode_writingToken hdecode
  rw [exec_token htoken] at ht
  rcases conclude_next ht with hbody | ⟨c, hbody, rfl⟩
  · obtain ⟨k, hk⟩ := tokenBody_advance hbody
    have hst : t.status = s.status := hk.frame .status (by decide)
    exact ⟨fun _ => halike t hbody, fun hdone => (nomatch (hst.trans hbusy).symm.trans hdone)⟩
  · exact ⟨fun hb => (nomatch (errorExit_status s).symm.trans hb), fun _ => herror c hbody⟩

end Sys2Proof.Proofs

/-! SUPPORT. The block copies and the Decoder's phases as instructions (R203, R205 to R209): what they write, and where they end the
command in an error. -/

namespace Sys2Proof.Proofs

open Sys2Proof.Machine Sys2Proof.Safety

/-! ## Block copies (R205, R206) -/

section
variable {src : Space} {d a n : Nat} {s t : State}

theorem wildcopyOp_succeeds (hsrc : ∀ k, k < n → ((sourceOf s.inMem src s.outMem).byte? (a + k)).isSome = true)
    (hdst : ∀ k, k < n → (s.outMem.byte? (d + k)).isSome = true) : ∃ t, wildcopyOp src d a n s = .ok t := by
  obtain ⟨out, ho⟩ := copyLoop_succeeds hsrc hdst
  rw [wildcopyOp, ho]
  exact ⟨_, rfl⟩

theorem bytecopyOp_succeeds (hsrc : ∀ k, k < n → (s.outMem.byte? (a + k)).isSome = true)
    (hdst : ∀ k, k < n → (s.outMem.byte? (d + k)).isSome = true) : ∃ t, bytecopyOp d a n s = .ok t := by
  obtain ⟨out, ho⟩ := copyLoop_succeeds (inM := s.inMem) (src := .output) hsrc hdst
  rw [bytecopyOp, ho]
  exact ⟨_, rfl⟩

theorem wildcopyOp_frame (h : wildcopyOp src d a n s = .ok t) : SameBut [.outMem, .draws] s t := by
  obtain ⟨out, -, rfl⟩ := wildcopyOp_ok h
  exact ((sameBut_withOut s out).mono (by decide)).trans (sameBut_clobber _ _ _)

/-- The bytes in front of WILDCOPY's overrun are those of its byte-by-byte copy. -/
theorem wildcopyOp_copied (h : wildcopyOp src d a n s = .ok t) : ∃ out,
    copyLoop s.inMem src n d a s.outMem = .ok out ∧ ∀ c, c < d + n → t.outMem.byte? c = out.byte? c := by
  obtain ⟨out, ho, rfl⟩ := wildcopyOp_ok h
  exact ⟨out, ho, fun c hc => Memory.byte?_scramble_outside (.inl hc)⟩

end

/-- A copy to before its source reads every byte before it is overwritten (R70). -/
theorem copyLoop_forward {inM : Memory} : ∀ {n d a k : Nat} {out out' : Memory},
    copyLoop inM .output n d a out = .ok out' → d ≤ a → k < n → out'.byte? (d + k) = out.byte? (a + k)
  | n + 1, d, a, k, out, out', h, hda, hk => by
    rw [copyLoop] at h
    split at h
    · cases h
    · next b hb =>
      split at h
      · cases h
      · next o ho =>
        cases k with
        | zero =>
          rw [Nat.add_zero, Nat.add_zero, copyLoop_outside h (.inl (Nat.lt_succ_self d)), Memory.byte?_set?_self ho]
          exact hb.symm
        | succ k =>
          have := copyLoop_forward h (Nat.succ_le_succ hda) (Nat.lt_of_succ_lt_succ hk)
          rw [Memory.byte?_set?_ne ho (by omega)] at this
          rwa [Nat.add_assoc, Nat.add_assoc, Nat.add_comm 1 k] at this

/-- What repeats the values from `a` on has their period (R209). -/
theorem eq_at_mod {α : Type} {f : Nat → α} {d a n : Nat} (had : a < d) (h : ∀ k, k < n → f (d + k) = f (a + k)) {k : Nat}
    (hk : k < n) : f (d + k) = f (a + k % (d - a)) := by
  induction k using Nat.strong_induction_on with
  | _ k ih =>
    rcases Nat.lt_or_ge k (d - a) with hlt | hge
    · rw [Nat.mod_eq_of_lt hlt, h k hk]
    · have hback : a + k = d + (k - (d - a)) := by omega
      rw [h k hk, hback, ih (k - (d - a)) (by omega) (by omega), ← Nat.mod_eq_sub_mod hge]

/-- A copy from before its destination writes the bytes between the two over and over (R206, R209). -/
theorem copyLoop_periodic {inM : Memory} {n d a k : Nat} {out out' : Memory}
    (h : copyLoop inM .output n d a out = .ok out') (had : a < d) (hk : k < n) :
    out'.byte? (d + k) = out.byte? (a + k % (d - a)) := by
  have hmod := Nat.mod_lt k (Nat.sub_pos_of_lt had)
  rw [eq_at_mod had (fun j hj => copyLoop_repeats h had hj) hk, copyLoop_outside h (.inl (by omega))]

/-- Settles O42: the copy is made byte by byte, and the overrun lies behind it. -/
theorem wildcopyEffect : Obligations.WildcopyEffect := by
  refine fun s d src n => ⟨fun hin hout => ?_, fun hsd hout => ?_⟩
  · obtain ⟨t, ht⟩ := wildcopyOp_succeeds (src := .input) (s := s) hin hout
    obtain ⟨out, ho, hcopied⟩ := wildcopyOp_copied ht
    refine ⟨t, ?_, fun k hk => ?_, fun a ha => wildcopyOp_outside ht ha, wildcopyOp_frame ht⟩
    · rw [exec, execWildcopy, if_neg (by decide), if_neg (by simp), ht]
      rfl
    · rw [hcopied _ (by omega), copyLoop_input_byte? ho hk]
  · obtain ⟨t, ht⟩ := wildcopyOp_succeeds (src := .output) (d := d) (a := src) (n := n) (s := s)
      (fun k hk => hout _ (by omega) (by omega)) (fun k hk => hout _ (by omega) (by omega))
    obtain ⟨out, ho, hcopied⟩ := wildcopyOp_copied ht
    refine ⟨t, ?_, fun k hk => ?_, fun a ha => wildcopyOp_outside ht ha, wildcopyOp_frame ht⟩
    · rw [exec, execWildcopy, if_neg (by decide), if_neg (by omega), ht]
      rfl
    · rw [hcopied _ (by omega), hcopied _ (by omega), copyLoop_repeats ho (by omega) hk]

/-- Settles O43: the copy has no overrun, and is periodic where it reads what it wrote. -/
theorem bytecopyEffect : Obligations.BytecopyEffect := by
  intro s d src n hsrc hdst
  obtain ⟨t, ht⟩ := bytecopyOp_succeeds (s := s) hsrc hdst
  obtain ⟨out, ho, rfl⟩ := bytecopyOp_ok ht
  exact ⟨_, congrArg (conclude s) ht, fun hlt k hk => copyLoop_periodic ho hlt hk,
    fun hle k hk => copyLoop_forward ho hle hk, fun a ha => copyLoop_outside ho ha, sameBut_withOut s out⟩

/-! ## MATCHCOPY (R208, R209) -/

section
variable {len : Nat} {dist : BitVec 17} {s t : State}

/-- MATCHCOPY completes where its bytes exist and its distance means something. -/
theorem matchcopyOp_of_lent (hc : s.outMem.covers (s.decOp + len) = true) (hd : dist.toNat ≤ s.decOp)
    (h0 : dist.toNat = 0 → s.dist0 = .selfcopy) : ∃ t, matchcopyOp len dist s = .ok t := by
  rw [Memory.covers_iff] at hc
  have hsrc (k : Nat) (hk : k < len) : (s.outMem.byte? (s.decOp - dist.toNat + k)).isSome = true := hc _ (by omega)
  have hdst (k : Nat) (hk : k < len) : (s.outMem.byte? (s.decOp + k)).isSome = true := hc _ (by omega)
  rw [matchcopyOp, if_neg (Nat.not_lt.2 hd)]
  split
  · exact wildcopyOp_succeeds (src := .output) hsrc hdst
  · split
    · exact bytecopyOp_succeeds hsrc hdst
    · rw [h0 (by omega)]
      exact ⟨_, rfl⟩

/-- MATCHCOPY writes nothing outside its extent (R205, R206, R208). -/
theorem matchcopyOp_outside (h : matchcopyOp len dist s = .ok t) :
    OutSameOutside s.decOp (s.decOp + matchExtent len dist.toNat) s t := by
  intro a ha
  unfold matchExtent at ha
  obtain ⟨-, ⟨h4, hw⟩ | ⟨-, h4, hb⟩ | ⟨h0, -, rfl⟩⟩ := matchcopyOp_ok h
  · rw [if_pos h4] at ha
    exact wildcopyOp_outside hw ha
  · rw [if_neg (by omega)] at ha
    obtain ⟨out, ho, rfl⟩ := bytecopyOp_ok hb
    exact copyLoop_outside ho ha
  · rw [if_neg (by omega)] at ha
    exact Memory.byte?_scramble_outside ha

/-- MATCHCOPY writes the last `dist` bytes of the output over and over (R209). -/
theorem matchcopyOp_periodic (h : matchcopyOp len dist s = .ok t) (hpos : 1 ≤ dist.toNat) {k : Nat} (hk : k < len) :
    t.outMem.byte? (s.decOp + k) = s.outMem.byte? (s.decOp - dist.toNat + k % dist.toNat) := by
  obtain ⟨hd, -⟩ := matchcopyOp_ok h
  obtain ⟨hrepeats, hbefore⟩ := matchcopyOp_repeats h hpos
  have hmod := Nat.mod_lt k hpos
  rw [eq_at_mod (f := t.outMem.byte?) (by omega) hrepeats hk, Nat.sub_sub_self hd, hbefore _ (by omega)]

/-- A zero distance goes on under `selfcopy` only (R208). -/
theorem matchcopyOp_dist0 (h : matchcopyOp len dist s = .ok t) (h0 : dist.toNat = 0) : s.dist0 = .selfcopy := by
  obtain ⟨-, ⟨h4, -⟩ | ⟨h1, -, -⟩ | ⟨-, hself, -⟩⟩ := matchcopyOp_ok h
  · omega
  · omega
  · exact hself

end

/-- Settles O41: the copies of the three kinds of distances. -/
theorem matchcopyRepeats : Obligations.MatchcopyRepeats := by
  refine fun s len dist hd hc => ⟨fun hpos => ?_, fun h0 hself => ?_, fun h0 herr => ?_⟩
  · obtain ⟨t, ht⟩ := matchcopyOp_of_lent hc hd (fun h0 => by omega)
    obtain ⟨hframe, -⟩ := matchcopyOp_effect ht
    exact ⟨t, congrArg (conclude s) ht, fun k hk => matchcopyOp_periodic ht hpos hk, matchcopyOp_outside ht, hframe⟩
  · subst h0
    obtain ⟨t, ht⟩ := matchcopyOp_of_lent hc hd (fun _ => hself)
    obtain ⟨hframe, -⟩ := matchcopyOp_effect ht
    exact ⟨t, congrArg (conclude s) ht, matchcopyOp_outside ht, hframe⟩
  · subst h0
    have hraise : matchcopyOp len 0 s = .error (.raise .eDist0) := by
      rw [matchcopyOp, if_neg (Nat.not_lt.2 hd), if_neg (by decide), if_neg (by decide), herr]
    exact endsInError_conclude hraise

/-! ## What the phases write -/

/-- What a literal phase has done: the registers, the literals at `op`, and nothing outside WILDCOPY's extent (R203, R205). -/
structure LitsWritten (ls : List Byte) (s t : State) : Prop where
  dec : t.dec = { s.dec with
    ip := Word.ofNat (s.ipN + ls.length), op := Word.ofNat (s.decOp + ls.length), run := ls.length }
  holds : OutHolds t s.decOp ls
  outside : OutSameOutside s.decOp (s.decOp + wildExtent ls.length) s t

/-- What a match phase has done: the registers, the repeated bytes, and nothing outside the copy's extent (R207 to R209). -/
structure MatchWritten (len : Nat) (dist : BitVec 17) (s t : State) : Prop where
  dec : t.dec = { s.dec with
    ip := Word.ofNat (s.ipN + 2), op := Word.ofNat (s.decOp + len), len := len, dist := dist }
  repeats : 1 ≤ dist.toNat → ∀ k, k < len →
    t.outMem.byte? (s.decOp + k) = s.outMem.byte? (s.decOp - dist.toNat + k % dist.toNat)
  outside : OutSameOutside s.decOp (s.decOp + matchExtent len dist.toNat) s t

/-- The conditions of a match phase (R207, R208). -/
structure MatchFits (len : Nat) (dist : BitVec 17) (s : State) : Prop where
  out : s.decOp + len ≤ s.capN
  field : s.ipN + 2 ≤ s.inN
  inside : dist.toNat ≤ s.decOp
  zero : dist.toNat = 0 → s.dist0 = .selfcopy

section
variable {s t : State}

theorem tokenLits_written {ls : List Byte} (h : tokenLits ls s = .ok t) : LitsWritten ls s t := by
  obtain ⟨-, -, out, ho, rfl⟩ := tokenLits_ok h
  have hE : ls.length ≤ wildExtent ls.length := by unfold wildExtent; omega
  refine ⟨rfl, ?_, fun a ha => ?_⟩
  · change (Memory.scramble _ _ _ out).slice _ _ = _
    rw [← Memory.slice_setBytes? ho]
    exact slice_congr fun k hk => Memory.byte?_scramble_outside (.inl (by omega))
  · change (Memory.scramble _ _ _ out).byte? a = _
    rw [Memory.byte?_scramble_outside (by omega), Memory.byte?_setBytes?_outside ho (by omega)]

theorem tokenLits_of_fits {ls : List Byte} (hc : s.outMem.covers (s.capN + 16) = true)
    (hcap : s.decOp + ls.length ≤ s.capN) (hin : s.ipN + ls.length ≤ s.inN) : ∃ t, tokenLits ls s = .ok t := by
  rw [Memory.covers_iff] at hc
  obtain ⟨out, ho⟩ := setBytes?_succeeds (bs := ls) (m := s.outMem) (a := s.decOp) fun k hk => hc _ (by omega)
  have hcheck : checkRun ls.length (s.setDecRun ls.length) = .ok () := checkRun_pass hcap hin
  unfold tokenLits
  dsimp only
  rw [hcheck, show (s.setDecRun ls.length).outMem.setBytes? (s.setDecRun ls.length).decOp ls = some out from ho]
  exact ⟨_, rfl⟩

variable {len : Nat} {dist : BitVec 17}

theorem tokenMatch_written (h : tokenMatch len dist s = .ok t) : MatchWritten len dist s t := by
  obtain ⟨-, -, hm⟩ := tokenMatch_ok h
  obtain ⟨-, u, hu, rfl⟩ := matchTail_ok hm
  obtain ⟨hframe, -⟩ := matchcopyOp_effect hu
  have hdec : u.dec = _ := hframe .dec (by decide)
  have houtside := matchcopyOp_outside hu
  refine ⟨?_, fun hpos k hk => matchcopyOp_periodic hu hpos hk, houtside⟩
  rw [State.setDecOp_dec, hdec]
  rfl

theorem tokenMatch_fits (h : tokenMatch len dist s = .ok t) : MatchFits len dist s := by
  obtain ⟨hcap, hin, hm⟩ := tokenMatch_ok h
  obtain ⟨hd, u, hu, -⟩ := matchTail_ok hm
  have hzero := matchcopyOp_dist0 hu
  exact ⟨hcap, hin, hd, hzero⟩

theorem tokenMatch_of_fits (hc : s.outMem.covers (s.capN + 16) = true) (h : MatchFits len dist s) :
    ∃ t, tokenMatch len dist s = .ok t := by
  obtain ⟨hcap, hin, hd, h0⟩ := h
  have hlent : s.outMem.covers (s.decOp + len) = true := by
    rw [Memory.covers_iff] at hc ⊢
    exact fun c hlt => hc c (by omega)
  obtain ⟨u, hu⟩ := matchcopyOp_of_lent (s := ((s.setDecLen len).setIp (s.ipN + 2)).setDecDist dist) hlent hd h0
  unfold tokenMatch
  dsimp only
  rw [checkMatch_pass (s := s.setDecLen len) hcap hin]
  exact ⟨_, matchTail_of_matchcopyOp (s := s.setDecLen len) hd hu⟩

/-- An operation that cannot finish on lent buffers ends its instruction in the error exit (R241). -/
theorem Completes.endsInError {r : Except Stop State} (h : Completes r) (hnot : ∀ t, r ≠ .ok t) :
    EndsInError s (Machine.conclude s r) := by
  cases r with
  | ok t => exact absurd rfl (hnot t)
  | error e =>
    obtain ⟨c, rfl⟩ := h e rfl
    exact endsInError_errorExit s

end

/-! ## LITPHASE (R203) -/

section
variable {s : State} {run len ip : Nat}

theorem runField_ip_le (h : RunField s run ip) (hip : s.ipN ≤ s.inN) : ip ≤ s.inN := by
  rcases h with ⟨-, -, rfl⟩ | ⟨-, bs, x, rest, -, -, -, hend⟩ <;> omega

theorem lenField_ip_le (h : LenField s len ip) (hip : s.ipN ≤ s.inN) : ip ≤ s.inN := by
  rcases h with ⟨-, -, rfl⟩ | ⟨-, bs, x, rest, -, -, -, hend⟩ <;> omega

theorem ipN_setIp (h : ip ≤ s.inN) : (s.setIp ip).ipN = ip := ofNat_toNat_of_lt (h.trans_lt (inN_lt s))

theorem litphaseOp_of_missing (htag : 32 ≤ s.dec.tag.toNat) (hip : s.ipN ≤ s.inN) (h : RunFieldMissing s) :
    litphaseOp s = .error (.raise .eField) := by
  obtain ⟨h7, bs, hrest, hvar⟩ := h
  rw [litphaseOp, if_neg (Nat.not_lt.2 htag), if_pos h7, decvarOp_eq hrest hip, hvar]
  rfl

/-- The checks of R203 that end the command. -/
theorem litphaseTail_raises (h : s.capN < s.decOp + run ∨ s.inN < s.ipN + run) :
    ∃ c, litphaseTail run (s.setDecRun run) = .error (.raise c) := by
  have hcheck : ∃ c, checkRun run (s.setDecRun run) = .error (.raise c) := by
    unfold checkRun
    split
    · exact ⟨_, rfl⟩
    · next hcap => exact ⟨_, if_pos (h.resolve_left hcap)⟩
  obtain ⟨c, hc⟩ := hcheck
  exact ⟨c, by rw [litphaseTail, hc]⟩

end

/-- Settles O39: behind its run field LITPHASE is the literal phase of a token whose literals are the bytes of IN there. -/
theorem litphaseEffect : Obligations.LitphaseEffect := by
  refine fun s htag hin hout hip => ⟨fun run ip hfield hcap hend => ?_, fun run ip hfield hunfit => ?_, fun hmissing => ?_⟩
  · have hipN := ipN_setIp (runField_ip_le hfield hip)
    rw [Memory.covers_iff] at hin
    obtain ⟨ls, hls⟩ := Option.isSome_iff_exists.1
      ((Memory.slice_isSome_iff run ip s.inMem).2 fun c _ hc => hin c (by omega))
    obtain rfl := slice_length hls
    obtain ⟨t, ht⟩ := tokenLits_of_fits (s := s.setIp ip) (ls := ls) hout hcap (by rw [hipN]; exact hend)
    obtain ⟨hdec, hholds, houtside⟩ := tokenLits_written ht
    have hframe := (tokenLits_advance ht).frame
    have hop : t.decOp = s.decOp + ls.length := (tokenLits_advance ht).op
    rw [hipN] at hdec
    have hphase : litphaseOp s = .ok t := by
      rw [litphaseOp_of_runField htag hip hfield, ← ht]
      exact litphaseTail_eq_tokenLits (by rw [hipN]; exact hls)
    refine ⟨t, congrArg (conclude s) hphase, ?_, hop, ?_, hholds.trans hls.symm, houtside,
      ((sameBut_withDec s _).mono (by decide)).trans hframe⟩
    · rw [State.ipN, hdec]
      exact ofNat_toNat_of_lt (hend.trans_lt (inN_lt s))
    · rw [hdec]
      rfl
  · obtain ⟨c, hc⟩ := litphaseTail_raises (s := s.setIp ip) (run := run) (by
      rw [ipN_setIp (runField_ip_le hfield hip)]
      exact hunfit)
    exact endsInError_conclude ((litphaseOp_of_runField htag hip hfield).trans hc)
  · exact endsInError_conclude (litphaseOp_of_missing htag hip hmissing)

/-! ## MATCHPHASE (R207) -/

theorem matchphaseOp_of_missing {s : State} (hip : s.ipN ≤ s.inN) (h : LenFieldMissing s) :
    matchphaseOp s = .error (.raise .eField) := by
  obtain ⟨h15, bs, hrest, hvar⟩ := h
  rw [matchphaseOp, if_pos h15, decvarOp_eq hrest hip, hvar]
  rfl

/-- The distance as R207 computes it. -/
theorem mkDist_toNat (tag lo hi : Byte) :
    (mkDist (tagDistHi tag) lo hi).toNat = (tag.toNat / 16 % 2) * 65536 + hi.toNat * 256 + lo.toNat := by
  have hlo := lo.isLt
  have hhi := hi.isLt
  rw [mkDist, BitVec.toNat_ofNat, tagDistHi_eq]
  omega

/-- Behind its length field MATCHPHASE is the match phase of a token with the distance that stands there. -/
theorem matchphaseOp_eq_tokenMatch {s : State} {len ip : Nat} {lo hi : Byte} (hip : s.ipN ≤ s.inN)
    (hfield : LenField s len ip) (hlo : s.inMem.byte? ip = some lo) (hhi : s.inMem.byte? (ip + 1) = some hi) :
    matchphaseOp s = tokenMatch len (mkDist (tagDistHi s.dec.tag) lo hi) (s.setIp ip) := by
  have hipN := ipN_setIp (lenField_ip_le hfield hip)
  rw [matchphaseOp_of_lenField hip hfield]
  refine matchphaseTail_eq_tokenMatch (distAt_of_bytes ?_ ?_) <;> rw [hipN]
  · exact hlo
  · exact hhi

/-- MATCHPHASE ends the command in an error where its match does not fit. -/
theorem matchphase_endsInError {s : State} {len ip : Nat} {lo hi : Byte} (hout : s.outMem.covers (s.capN + 16) = true)
    (hip : s.ipN ≤ s.inN) (hfield : LenField s len ip) (hlo : s.inMem.byte? ip = some lo)
    (hhi : s.inMem.byte? (ip + 1) = some hi)
    (hunfit : ¬MatchFits len (mkDist (tagDistHi s.dec.tag) lo hi) (s.setIp ip)) :
    EndsInError s (exec .matchphase s) := by
  rw [exec, execMatchphase, matchphaseOp_eq_tokenMatch hip hfield hlo hhi]
  exact (tokenMatch_completes _ _ (s := s.setIp ip) hout).endsInError fun t ht => hunfit (tokenMatch_fits ht)

/-- Settles O40: behind its length field MATCHPHASE is the match phase of a token. -/
theorem matchphaseEffect : Obligations.MatchphaseEffect := by
  refine fun s hin hout hip => ⟨fun len ip lo hi d hfield hcap hend hlo hhi hd => ⟨fun hle h0 => ?_, fun hbad => ?_⟩,
    fun len ip hfield hunfit => ?_, fun hmissing => endsInError_conclude (matchphaseOp_of_missing hip hmissing)⟩
  · have hipN := ipN_setIp (lenField_ip_le hfield hip)
    obtain rfl : (mkDist (tagDistHi s.dec.tag) lo hi).toNat = d := (mkDist_toNat _ _ _).trans hd.symm
    obtain ⟨t, ht⟩ := tokenMatch_of_fits (s := s.setIp ip) hout ⟨hcap, by rw [hipN]; exact hend, hle, h0⟩
    obtain ⟨hdec, hrepeats, houtside⟩ := tokenMatch_written ht
    have hframe := (tokenMatch_advance ht).frame
    have hop : t.decOp = s.decOp + len := (tokenMatch_advance ht).op
    rw [hipN] at hdec
    refine ⟨t, congrArg (conclude s) ((matchphaseOp_eq_tokenMatch hip hfield hlo hhi).trans ht), ?_, hop,
      congrArg (·.len) hdec, congrArg (·.dist.toNat) hdec, congrArg (·.tag) hdec, congrArg (·.run) hdec, hrepeats,
      houtside, ((sameBut_withDec s _).mono (by decide)).trans hframe⟩
    rw [State.ipN, hdec]
    exact ofNat_toNat_of_lt (hend.trans_lt (inN_lt s))
  · refine matchphase_endsInError hout hip hfield hlo hhi fun hfits => ?_
    have hinside := hfits.inside
    have hzero := hfits.zero
    rw [mkDist_toNat, ← hd] at hinside hzero
    rcases hbad with hlt | ⟨h0, herr⟩
    · exact Nat.not_lt.2 hinside hlt
    · exact nomatch herr.symm.trans (hzero h0)
  · have hipLe := lenField_ip_le hfield hip
    rw [Memory.covers_iff] at hin
    obtain ⟨lo, hlo⟩ := Option.isSome_iff_exists.1 (hin ip (by omega))
    obtain ⟨hi, hhi⟩ := Option.isSome_iff_exists.1 (hin (ip + 1) (by omega))
    refine matchphase_endsInError hout hip hfield hlo hhi fun hfits => ?_
    have hcap : s.decOp + len ≤ s.capN := hfits.out
    have hend : ip + 2 ≤ s.inN := by
      have := hfits.field
      rwa [ipN_setIp hipLe] at this
    omega

end Sys2Proof.Proofs

/-! SUPPORT. The token forms as instructions (R220 to R227): a token finishes exactly where its checks pass (R203, R207, R242), and
what it then leaves. -/

namespace Sys2Proof.Proofs

open Sys2Proof.Machine Sys2Proof.Safety

/-! ## When a token finishes -/

/-- The checks of a token (R203, R207, R208), all of them against the registers it begins with. -/
structure TokenFits (i : Instr) (s : State) : Prop where
  out : s.decOp + (lits i).length + matchLen i ≤ s.capN
  bytes : s.ipN + i.byteLength ≤ s.inN
  inside : matchDist i ≤ s.decOp + (lits i).length
  zero : i.isFinal = false → matchDist i = 0 → s.dist0 = .selfcopy

section
variable {i : Instr} {s t : State}

theorem litPart_advances (h : litPart i s = .ok t) : Advance (lits i).length (litSpan i) s t := by
  cases i
  case lmXX | lmXS | lX => exact longLits_advance h
  case lmSX | lmSS | lS => exact tokenLits_advance h
  all_goals cases h; exact advance_refl s

theorem matchPart_advances (h : matchPart i s = .ok t) : Advance (matchLen i) (matchSpan i) s t := by
  cases i
  case mX | lmXX | lmSX => exact longMatch_advance h
  case mS | lmXS | lmSS => exact tokenMatch_advance h
  all_goals cases h; exact advance_refl s

/-- A token that finishes advances both cursors by what it decodes to and by its encoding (R100). -/
theorem tokenBody_advances (htoken : i.isToken = true) (hip : s.ipN < s.inN) (h : tokenBody i s = .ok t) :
    Advance ((lits i).length + matchLen i) i.byteLength s t := by
  obtain ⟨u, hu, ht⟩ := phases_ok h
  have := ((takeTag_advance (tokenTag i) hip).trans (litPart_advances hu)).trans (matchPart_advances ht)
  rwa [Nat.zero_add, ← byteLength_eq htoken] at this

theorem matchPart_inside (h : matchPart i s = .ok t) :
    matchDist i ≤ s.decOp ∧ (i.isToken = true → i.isFinal = false → matchDist i = 0 → s.dist0 = .selfcopy) := by
  cases i
  case mX x d | lmXX _ x d | lmSX _ x d =>
    have hfits := tokenMatch_fits (s := skipVar x s) h
    exact ⟨hfits.inside, fun _ _ => hfits.zero⟩
  case mS | lmXS | lmSS =>
    have hfits := tokenMatch_fits h
    exact ⟨hfits.inside, fun _ _ => hfits.zero⟩
  case lX | lS => exact ⟨Nat.zero_le _, fun _ hf => nomatch hf⟩
  all_goals exact ⟨Nat.zero_le _, fun hi => nomatch hi⟩

theorem tokenBody_fits (htoken : i.isToken = true) (hN : s.inN ≤ 2147483631) (hip : s.ipN < s.inN) (hop : s.decOp ≤ s.capN)
    (h : tokenBody i s = .ok t) : TokenFits i s := by
  have ha := tokenBody_advances htoken hip h
  obtain ⟨hipt, hend⟩ := ha.ip hN hip.le
  have hopt := ha.op
  have hcap := ha.opLe hop
  obtain ⟨u, hu, ht⟩ := phases_ok h
  have hau := litPart_advances hu
  have hou : u.decOp = s.decOp + (lits i).length := hau.op
  have hdist0 : u.dist0 = s.dist0 := hau.frame .dist0 (by decide)
  obtain ⟨hinside, hzero⟩ := matchPart_inside ht
  exact ⟨by omega, by omega, by omega, fun hf h0 => hdist0 ▸ hzero htoken hf h0⟩

theorem litPart_of_fits (hc : s.outMem.covers (s.capN + 16) = true) (hcap : s.decOp + (lits i).length ≤ s.capN)
    (hin : s.ipN + litSpan i ≤ s.inN) : ∃ t, litPart i s = .ok t := by
  cases i
  case lmXX l _ _ | lmXS l _ _ | lX _ l =>
    exact tokenLits_of_fits (s := skipVar (l.length - 7) s) hc hcap (by rw [skipVar_ipN hin, Nat.add_assoc]; exact hin)
  case lmSX l _ _ | lmSS l _ _ | lS _ l => exact tokenLits_of_fits hc hcap hin
  all_goals exact ⟨s, rfl⟩

theorem matchPart_of_fits (hc : s.outMem.covers (s.capN + 16) = true) (hcap : s.decOp + matchLen i ≤ s.capN)
    (hin : s.ipN + matchSpan i ≤ s.inN) (hinside : matchDist i ≤ s.decOp)
    (h0 : i.isFinal = false → matchDist i = 0 → s.dist0 = .selfcopy) : ∃ t, matchPart i s = .ok t := by
  cases i
  case mX x _ | lmXX _ x _ | lmSX _ x _ =>
    exact tokenMatch_of_fits (s := skipVar x s) hc
      ⟨hcap, by rw [skipVar_ipN hin, Nat.add_assoc]; exact hin, hinside, h0 rfl⟩
  case mS | lmXS | lmSS => exact tokenMatch_of_fits hc ⟨hcap, hin, hinside, h0 rfl⟩
  all_goals exact ⟨s, rfl⟩

theorem tokenBody_of_fits (htoken : i.isToken = true) (hN : s.inN ≤ 2147483631)
    (hc : s.outMem.covers (s.capN + 16) = true) (h : TokenFits i s) : ∃ t, tokenBody i s = .ok t := by
  obtain ⟨hcap, hin, hinside, h0⟩ := h
  have hlen := byteLength_eq htoken
  have htag := takeTag_advance (tokenTag i) (s := s) (by omega)
  have hip : (takeTag (tokenTag i) s).ipN = s.ipN + 1 := (htag.ip hN (by omega)).1
  have hlitIn : (takeTag (tokenTag i) s).ipN + litSpan i ≤ s.inN := by omega
  obtain ⟨u, hu⟩ := litPart_of_fits (s := takeTag (tokenTag i) s) hc ((Nat.le_add_right _ _).trans hcap) hlitIn
  have hsu := htag.trans (litPart_advances hu)
  have hop : u.decOp = s.decOp + (lits i).length := (litPart_advances hu).op
  have hcapN : u.capN = s.capN := congrArg BitVec.toNat hsu.outCap
  have hinN : u.inN = s.inN := congrArg BitVec.toNat hsu.inLen
  have hipu : u.ipN = s.ipN + (1 + litSpan i) := (hsu.ip hN (by omega)).1
  have hdist0 : u.dist0 = s.dist0 := hsu.frame .dist0 (by decide)
  obtain ⟨t, ht⟩ := matchPart_of_fits (i := i) (s := u) (by rw [hcapN, Memory.covers_of_addrs hsu.addrs]; exact hc)
    (by omega) (by omega) (by omega) (by rw [hdist0]; exact h0)
  exact ⟨t, by rw [tokenBody, hu]; exact ht⟩

/-! ## What a token leaves -/

/-- How far behind `op` the literals of a token and their overrun reach (R205). -/
def litReach (i : Instr) : Nat := if lits i = [] then 0 else wildExtent (lits i).length

/-- How far behind its destination the match of a token and its overrun reach (R205, R206, R208). -/
def matchReach (i : Instr) : Nat := if matchLen i = 0 then 0 else matchExtent (matchLen i) (matchDist i)

/-- What the literal phase of a token leaves. -/
structure LitPhase (i : Instr) (s t : State) : Prop where
  run : (lits i = [] → s.dec.run = 0) → t.dec.run = (lits i).length
  holds : OutHolds t s.decOp (lits i)
  outside : OutSameOutside s.decOp (s.decOp + litReach i) s t

/-- What the match phase of a token leaves. -/
structure MatchPhase (i : Instr) (s t : State) : Prop where
  run : t.dec.run = s.dec.run
  fields : i.isToken = true → i.isFinal = false → t.dec.len = matchLen i ∧ t.dec.dist.toNat = matchDist i
  repeats : 1 ≤ matchDist i → ∀ k, k < matchLen i →
    t.outMem.byte? (s.decOp + k) = s.outMem.byte? (s.decOp - matchDist i + k % matchDist i)
  outside : OutSameOutside s.decOp (s.decOp + matchReach i) s t

theorem litPhase_of_written (hne : lits i ≠ []) (hrun : t.dec.run = (lits i).length) (hholds : OutHolds t s.decOp (lits i))
    (houtside : OutSameOutside s.decOp (s.decOp + wildExtent (lits i).length) s t) : LitPhase i s t :=
  ⟨fun _ => hrun, hholds, by rwa [litReach, if_neg hne]⟩

theorem litPart_phase (hwf : i.wf = true) (h : litPart i s = .ok t) : LitPhase i s t := by
  cases i
  case lmXX | lmXS | lX =>
    simp only [Instr.wf, Bool.and_eq_true, longRun_iff] at hwf
    obtain ⟨hdec, hholds, houtside⟩ := tokenLits_written h
    exact litPhase_of_written (List.length_pos_iff.1 (by simp only [lits]; omega)) (congrArg (·.run) hdec) hholds houtside
  case lmSX | lmSS | lS =>
    simp only [Instr.wf, Bool.and_eq_true, shortRun_iff] at hwf
    obtain ⟨hdec, hholds, houtside⟩ := tokenLits_written h
    exact litPhase_of_written (List.length_pos_iff.1 (by simp only [lits]; omega)) (congrArg (·.run) hdec) hholds houtside
  all_goals cases h; exact ⟨fun h0 => h0 rfl, rfl, fun _ _ => rfl⟩

theorem matchPhase_of_written {dist : BitVec 17} (hpos : matchLen i ≠ 0) (hdist : dist.toNat = matchDist i)
    (hrun : t.dec.run = s.dec.run) (hlen : t.dec.len = matchLen i) (hdec : t.dec.dist = dist)
    (hrepeats : 1 ≤ dist.toNat → ∀ k, k < matchLen i →
      t.outMem.byte? (s.decOp + k) = s.outMem.byte? (s.decOp - dist.toNat + k % dist.toNat))
    (houtside : OutSameOutside s.decOp (s.decOp + matchExtent (matchLen i) dist.toNat) s t) : MatchPhase i s t := by
  rw [hdist] at hrepeats houtside
  exact ⟨hrun, fun _ _ => ⟨hlen, by rw [hdec, hdist]⟩, hrepeats, by rwa [matchReach, if_neg hpos]⟩

theorem matchPart_phase (h : matchPart i s = .ok t) : MatchPhase i s t := by
  cases i
  case mX x _ | lmXX _ x _ | lmSX _ x _ =>
    obtain ⟨hdec, hrepeats, houtside⟩ := tokenMatch_written (s := skipVar x s) h
    exact matchPhase_of_written (by simp only [matchLen]; omega) rfl (congrArg (·.run) hdec) (congrArg (·.len) hdec)
      (congrArg (·.dist) hdec) hrepeats houtside
  case mS | lmXS | lmSS =>
    obtain ⟨hdec, hrepeats, houtside⟩ := tokenMatch_written h
    exact matchPhase_of_written (by simp only [matchLen]; omega) rfl (congrArg (·.run) hdec) (congrArg (·.len) hdec)
      (congrArg (·.dist) hdec) hrepeats houtside
  case lX | lS => cases h; exact ⟨rfl, fun _ hf => (nomatch hf), fun _ _ hk => (nomatch hk), fun _ _ => rfl⟩
  all_goals cases h; exact ⟨rfl, fun hi => (nomatch hi), fun _ _ hk => (nomatch hk), fun _ _ => rfl⟩

/-- The run code of a token without literals is 0 (R91, R94). -/
theorem takeTag_run (htoken : i.isToken = true) (hwf : i.wf = true) (hnone : lits i = []) :
    (takeTag (tokenTag i) s).dec.run = 0 := by
  have hrun (dist : BitVec 17) (code : BitVec 4) : tagRunCode (mkTag 0 (distHi dist) code.toNat) = 0 :=
    ((eq_mkTag_iff (by decide)).1 rfl).1
  cases i
  case mX _ dist => exact hrun dist 15
  case mS code dist => exact hrun dist code
  case lmXX | lmXS | lX =>
    simp only [Instr.wf, Bool.and_eq_true, longRun_iff] at hwf
    cases hnone
    simp at hwf
  case lmSX | lmSS | lS =>
    simp only [Instr.wf, Bool.and_eq_true, shortRun_iff] at hwf
    cases hnone
    simp at hwf
  all_goals cases htoken

/-- What a token that finishes leaves: the literals at `op`, its match behind them, and the registers (R23, R220 to R227). -/
structure TokenWritten (i : Instr) (s t : State) : Prop where
  frame : SameBut [.dec, .outMem, .draws] s t
  ip : t.ipN = s.ipN + i.byteLength
  op : t.decOp = s.decOp + (lits i).length + matchLen i
  run : t.dec.run = (lits i).length
  fields : i.isFinal = false → t.dec.len = matchLen i ∧ t.dec.dist.toNat = matchDist i
  holds : OutHolds t s.decOp (lits i)
  repeats : 1 ≤ matchDist i → ∀ k, k < matchLen i → t.outMem.byte? (s.decOp + (lits i).length + k) =
    t.outMem.byte? (s.decOp + (lits i).length - matchDist i + k % matchDist i)
  outside : OutSameOutside s.decOp (storeEnd i s.decOp) s t

theorem storeEnd_eq (i : Instr) (op : Nat) :
    storeEnd i op = max (op + litReach i) (op + (lits i).length + matchReach i) := rfl

theorem tokenBody_written (htoken : i.isToken = true) (hwf : i.wf = true) (hN : s.inN ≤ 2147483631) (hip : s.ipN < s.inN)
    (h : tokenBody i s = .ok t) : TokenWritten i s t := by
  have ha := tokenBody_advances htoken hip h
  obtain ⟨u, hu, ht⟩ := phases_ok h
  have hop : u.decOp = s.decOp + (lits i).length := (litPart_advances hu).op
  obtain ⟨hrun, hholds, hlitOutside⟩ := litPart_phase hwf hu
  obtain ⟨hrunKept, hfields, hrepeats, hmatchOutside⟩ := matchPart_phase ht
  obtain ⟨hinside, -⟩ := matchPart_inside ht
  rw [hop] at hrepeats hmatchOutside hinside
  refine ⟨ha.frame, (ha.ip hN hip.le).1, ?_, hrunKept.trans (hrun (takeTag_run htoken hwf)), hfields htoken, ?_,
    fun hpos k hk => ?_, fun a hout => ?_⟩
  · rw [ha.op, Nat.add_assoc]
  · exact (slice_congr fun k hk => hmatchOutside _ (.inl (Nat.add_lt_add_left hk _))).trans hholds
  · have hmod := Nat.mod_lt k hpos
    rw [hrepeats hpos k hk]
    exact (hmatchOutside _ (.inl (by omega))).symm
  · rw [storeEnd_eq] at hout
    exact (hmatchOutside a (by omega)).trans (hlitOutside a (show a < s.decOp ∨ s.decOp + litReach i ≤ a by omega))

/-! ## Tokens as instructions -/

theorem writingToken_of_wf (htoken : i.isToken = true) (hwf : i.wf = true) : WritingToken i := by
  refine ⟨htoken, ?_⟩
  cases i
  case lX => simp only [Instr.wf, longRun_iff] at hwf; simp only [lits]; omega
  case lS => simp only [Instr.wf, shortRun_iff] at hwf; simp only [lits]; omega
  case mX | mS | lmXX | lmXS | lmSX | lmSS => simp only [matchLen]; omega
  all_goals cases htoken

/-- A varint behind the stream's end leaves the cursor behind the stream's end. -/
theorem skipVar_beyond {x n : Nat} (hN : s.inN ≤ 2147483631) (hip : s.ipN = s.inN + 1) (hx : x < 34630287488) :
    ¬(skipVar x s).ipN + n ≤ s.inN := by
  obtain ⟨-, -, -, h5⟩ := vlen_bounds x
  have h5 := h5 hx
  have : (skipVar x s).ipN = s.ipN + vlen x := ofNat_toNat_of_lt (by omega)
  omega

/-- Behind the stream's end a literal phase finishes only where there is none. -/
theorem litPart_beyond (htoken : i.isToken = true) (hN : s.inN ≤ 2147483631) (hip : s.ipN = s.inN + 1)
    (h : litPart i s = .ok t) : lits i = [] ∧ t = s := by
  have hcap := capN_lt s
  cases i
  case lmXX l _ _ | lmXS l _ _ | lX _ l =>
    obtain ⟨hout, hin, -⟩ := tokenLits_ok h
    have hout : s.decOp + l.length ≤ s.capN := hout
    exact absurd hin (skipVar_beyond hN hip (by omega))
  case lmSX | lmSS | lS =>
    obtain ⟨-, hin, -⟩ := tokenLits_ok h
    omega
  case mX | mS => cases h; exact ⟨rfl, rfl⟩
  all_goals cases htoken

/-- The same for a match phase. -/
theorem matchPart_beyond (hN : s.inN ≤ 2147483631) (hip : s.ipN = s.inN + 1) (h : matchPart i s = .ok t) :
    matchLen i = 0 := by
  have hcap := capN_lt s
  cases i
  case mX x _ | lmXX _ x _ | lmSX _ x _ =>
    obtain ⟨hout, hin, -⟩ := tokenMatch_ok h
    have hout : s.decOp + (19 + x) ≤ s.capN := hout
    exact absurd hin (skipVar_beyond hN hip (by omega))
  case mS | lmXS | lmSS =>
    obtain ⟨-, hin, -⟩ := tokenMatch_ok h
    omega
  all_goals rfl

/-- A token whose tag would be the byte behind the stream does not finish: one of its phases has bytes to read (R203, R207). -/
theorem tokenBody_at_end (hi : WritingToken i) (hN : s.inN ≤ 2147483631) (hip : s.ipN = s.inN) : tokenBody i s ≠ .ok t := by
  intro h
  obtain ⟨u, hu, ht⟩ := phases_ok h
  obtain ⟨htoken, hpos⟩ := hi
  have htagIp : (takeTag (tokenTag i) s).ipN = s.inN + 1 := by
    rw [← hip]
    exact ofNat_toNat_of_lt (by omega)
  obtain ⟨hnone, rfl⟩ := litPart_beyond (s := takeTag (tokenTag i) s) htoken hN htagIp hu
  have hzero := matchPart_beyond (s := takeTag (tokenTag i) s) hN htagIp ht
  rw [hnone, hzero] at hpos
  exact Nat.lt_irrefl 0 hpos

/-- A token whose checks do not all pass ends the command in the error exit (R241, R242). -/
theorem exec_token_endsInError (hi : WritingToken i) (hN : s.inN ≤ 2147483631)
    (hc : s.outMem.covers (s.capN + 16) = true) (hip : s.ipN ≤ s.inN) (hop : s.decOp ≤ s.capN) (hunfit : ¬TokenFits i s) :
    EndsInError s (exec i s) := by
  rw [exec_token hi.1]
  refine (tokenBody_completes i hc).endsInError fun t ht => ?_
  rcases Nat.lt_or_eq_of_le hip with hlt | heq
  · exact hunfit (tokenBody_fits hi.1 hN hlt hop ht)
  · exact tokenBody_at_end hi hN heq ht

/-- A well-formed token whose checks all pass executes (R220 to R227). -/
theorem exec_token_written (htoken : i.isToken = true) (hwf : i.wf = true) (hN : s.inN ≤ 2147483631)
    (hc : s.outMem.covers (s.capN + 16) = true) (h : TokenFits i s) : ∃ t, exec i s = .next t ∧ TokenWritten i s t := by
  obtain ⟨t, ht⟩ := tokenBody_of_fits htoken hN hc h
  have hlen := byteLength_eq htoken
  have hbytes := h.bytes
  exact ⟨t, (exec_token htoken s).trans (congrArg (conclude s) ht), tokenBody_written htoken hwf hN (by omega) ht⟩

end

/-- Settles O44: its checks pass, so the token leaves what `TokenWritten` says. -/
theorem tokenExecutes : Obligations.TokenExecutes := by
  intro i s htoken hwf ⟨hN, _⟩ hc hcap hin hdist
  have hdistOk : matchDist i ≤ s.decOp + (lits i).length ∧ (i.isFinal = false → matchDist i ≠ 0) := by
    cases hf : i.isFinal with
    | true =>
      obtain h0 : matchDist i = 0 := by
        cases i
        case lX | lS => rfl
        all_goals cases hf
      exact ⟨by omega, fun h => (nomatch h)⟩
    | false =>
      obtain ⟨hpos, hle⟩ := hdist hf
      exact ⟨hle, fun _ => by omega⟩
  obtain ⟨hle, hpos⟩ := hdistOk
  obtain ⟨t, ht, hw⟩ := exec_token_written htoken hwf hN hc ⟨hcap, hin, hle, fun hf h0 => absurd h0 (hpos hf)⟩
  refine ⟨t, ht, hw.ip, hw.op, hw.run, hw.fields, hw.holds, fun k hk => ?_, hw.outside, hw.frame⟩
  cases hf : i.isFinal with
  | true => rw [(isToken_of_isFinal hf).2] at hk; exact absurd hk (Nat.not_lt_zero k)
  | false => exact hw.repeats (hdist hf).1 k hk

/-- Settles O45: under `selfcopy` the checks pass, under `error` the last one does not. -/
theorem zeroDistanceToken : Obligations.ZeroDistanceToken := by
  intro i s htoken hf hwf ⟨hN, _⟩ hc hcap hin h0
  have hlen := byteLength_eq htoken
  refine ⟨fun hself => ?_, fun herr => ?_⟩
  · obtain ⟨t, ht, hw⟩ := exec_token_written htoken hwf hN hc ⟨hcap, hin, by omega, fun _ _ => hself⟩
    exact ⟨t, ht, hw.ip, hw.op, hw.holds, hw.outside, hw.frame⟩
  · refine exec_token_endsInError (writingToken_of_wf htoken hwf) hN hc (by omega) (by omega) fun hfits => ?_
    exact nomatch herr.symm.trans (hfits.zero hf h0)

/-- Settles O46: a violated condition is one of the token's checks. -/
theorem tokenErrors : Obligations.TokenErrors := by
  intro i s htoken hwf ⟨hN, _⟩ hc hip hop hbad
  refine exec_token_endsInError (writingToken_of_wf htoken hwf) hN hc hip hop fun ⟨hout, hbytes, hinside, _⟩ => ?_
  omega

end Sys2Proof.Proofs

/-! SUPPORT. The steps of a running DECOMPRESS one by one (R201, R210, R241), and two runs of DECOMPRESS on the same stream side by
side (R212, R273). -/

namespace Sys2Proof.Proofs

open Sys2Proof.Machine Sys2Proof.Safety

/-! ## The steps of a running DECOMPRESS -/

section
variable {s : State} {bs rest : List Byte}

/-- The step of a token (R201). -/
theorem decoderStep_token {i : Instr} (hip : s.ipN < s.inN) (hrest : streamRest s = some bs)
    (h : decode bs = .ok (i, rest)) : decoderStep s = exec i s := by
  rw [decoderStep, if_pos hip, hrest]
  simp only [h]
  exact execToken_eq_exec (decode_writingToken h).1 s

/-- The step where the stream ends inside a token (R241). -/
theorem decoderStep_reject {e : Reject} (hip : s.ipN < s.inN) (hrest : streamRest s = some bs)
    (h : decode bs = .error e) : decoderStep s = .next (errorExit s) := by
  rw [decoderStep, if_pos hip, hrest]
  simp only [h]
  rfl

/-- The step at the end of the stream (R210). -/
theorem decoderStep_end (hip : s.ipN = s.inN) : decoderStep s = .next (finishDecompress s) := by
  rw [decoderStep, if_neg hip.not_lt, loopExit, if_pos hip]

theorem decoderStep_beyond (hip : s.inN < s.ipN) : decoderStep s = .next (errorExit s) := by
  rw [decoderStep, if_neg hip.not_gt, loopExit, if_neg hip.ne']
  rfl

end

/-- Settles O48: the step is the error exit. -/
theorem brokenStreamEndsInError : Obligations.BrokenStreamEndsInError := by
  intro s bs e hb hc hip hrest hdecode
  rw [step_busy_decompress hb hc, decoderStep_reject hip hrest hdecode]
  exact endsInError_errorExit s

/-- Settles O49: the loop's end is the success exit at `in_len` and the error exit beyond it. -/
theorem loopExitReportsCount : Obligations.LoopExitReportsCount := by
  intro s hb hc
  rw [step_busy_decompress hb hc]
  refine ⟨fun hip => ⟨_, decoderStep_end hip, finishDecompress_status s, finishDecompress_result s, fun a ha => ?_,
    sameBut_finishDecompress s⟩, fun hip => ?_⟩
  · rw [finishDecompress_outMem, Memory.byte?_scramble_outside ha]
  · rw [decoderStep_beyond hip]
    exact endsInError_errorExit s

/-! ## Two runs side by side -/

/-- Two running commands with the same operands that stand at the same place of the same stream and have produced as much. -/
structure DecoderTwin (s s' : State) : Prop where
  busy : s.status = .busy
  busy' : s'.status = .busy
  inv : DecoderInv s
  inv' : DecoderInv s'
  inLen : s.inLen = s'.inLen
  outCap : s.outCap = s'.outCap
  dist0 : s.dist0 = s'.dist0
  input : SameInput s s' s.inN
  ip : s.dec.ip = s'.dec.ip
  op : s.dec.op = s'.dec.op

/-- Two commands that have ended with the same RESULT. -/
structure SameEnd (s s' : State) : Prop where
  done : s.status = .done
  done' : s'.status = .done
  result : s.result = s'.result

section
variable {s s' t t' : State}

theorem DecoderTwin.streamRest_eq (h : DecoderTwin s s') : streamRest s = streamRest s' := by
  rw [streamRest, streamRest, State.ipN, State.ipN, State.inN, State.inN, ← h.ip, ← h.inLen]
  exact slice_congr fun k hk => h.input _ (by simp only [State.inN]; omega)

/-- The checks of a token read nothing the two runs may differ in. -/
theorem DecoderTwin.tokenFits_iff (h : DecoderTwin s s') {i : Instr} : TokenFits i s' ↔ TokenFits i s := by
  have hin : s'.inN = s.inN := congrArg BitVec.toNat h.inLen.symm
  have hcap : s'.capN = s.capN := congrArg BitVec.toNat h.outCap.symm
  have hip : s'.ipN = s.ipN := congrArg BitVec.toNat h.ip.symm
  have hop : s'.decOp = s.decOp := congrArg BitVec.toNat h.op.symm
  constructor <;> rintro ⟨hout, hbytes, hinside, hzero⟩
  · exact ⟨by omega, by omega, by omega, h.dist0 ▸ hzero⟩
  · exact ⟨by omega, by omega, by omega, h.dist0 ▸ hzero⟩

/-- A token that moves both runs alike keeps them together. -/
theorem DecoderTwin.advance {n k : Nat} (h : DecoderTwin s s') (ha : Advance n k s t) (ha' : Advance n k s' t') :
    DecoderTwin t t' := by
  have hst : t.status = s.status := ha.frame .status (by decide)
  have hst' : t'.status = s'.status := ha'.frame .status (by decide)
  have hd : t.dist0 = s.dist0 := ha.frame .dist0 (by decide)
  have hd' : t'.dist0 = s'.dist0 := ha'.frame .dist0 (by decide)
  have hm : t.inMem = s.inMem := ha.frame .inMem (by decide)
  have hm' : t'.inMem = s'.inMem := ha'.frame .inMem (by decide)
  have hip : s'.ipN = s.ipN := congrArg BitVec.toNat h.ip.symm
  have hop : s'.decOp = s.decOp := congrArg BitVec.toNat h.op.symm
  constructor
  · exact hst.trans h.busy
  · exact hst'.trans h.busy'
  · exact ha.decoderInv h.inv
  · exact ha'.decoderInv h.inv'
  · exact (ha.inLen.trans h.inLen).trans ha'.inLen.symm
  · exact (ha.outCap.trans h.outCap).trans ha'.outCap.symm
  · exact (hd.trans h.dist0).trans hd'.symm
  · rw [SameInput, State.inN, ha.inLen, hm, hm']; exact h.input
  · have hipt := (ha.ip h.inv.operands.1 h.inv.ip).1
    have hipt' := (ha'.ip h.inv'.operands.1 h.inv'.ip).1
    exact BitVec.toNat_inj.1 (show t.ipN = t'.ipN by omega)
  · have hopt := ha.op
    have hopt' := ha'.op
    exact BitVec.toNat_inj.1 (show t.decOp = t'.decOp by omega)

theorem sameEnd_errorExit (s s' : State) : SameEnd (errorExit s) (errorExit s') :=
  ⟨errorExit_status s, errorExit_status s', (errorExit_result s).trans (errorExit_result s').symm⟩

/-- What a token of a legal DECOMPRESS does: it advances the cursors where its checks pass, else it is the error exit. -/
theorem exec_token_cases {i : Instr} (hi : WritingToken i) (hinv : DecoderInv s) (hip : s.ipN < s.inN)
    (h : exec i s = .next t) :
    (TokenFits i s ∧ Advance ((lits i).length + matchLen i) i.byteLength s t) ∨ (¬TokenFits i s ∧ t = errorExit s) := by
  obtain ⟨hN, -⟩ := hinv.operands
  obtain ⟨-, hlent, -⟩ := hinv.buffers
  rw [exec_token hi.1] at h
  rcases conclude_next h with hbody | ⟨c, hbody, rfl⟩
  · exact .inl ⟨tokenBody_fits hi.1 hN hip hinv.op hbody, tokenBody_advances hi.1 hip hbody⟩
  · refine .inr ⟨fun hfits => ?_, rfl⟩
    obtain ⟨u, hu⟩ := tokenBody_of_fits hi.1 hN hlent hfits
    cases hbody.symm.trans hu

/-- A step of both commands leaves them together, or ends both with the same RESULT. -/
theorem decoderStep_twin (h : DecoderTwin s s') (ht : decoderStep s = .next t) (ht' : decoderStep s' = .next t') :
    DecoderTwin t t' ∨ SameEnd t t' := by
  have hin : s'.inN = s.inN := congrArg BitVec.toNat h.inLen.symm
  have hip : s'.ipN = s.ipN := congrArg BitVec.toNat h.ip.symm
  rcases Nat.lt_or_eq_of_le h.inv.ip with hlt | heq
  · have hlt' : s'.ipN < s'.inN := by omega
    obtain ⟨bs, hrest⟩ := streamRest_isSome h.inv.buffers.1
    have hrest' := h.streamRest_eq ▸ hrest
    cases hdecode : decode bs with
    | error e =>
      cases (decoderStep_reject hlt hrest hdecode).symm.trans ht
      cases (decoderStep_reject hlt' hrest' hdecode).symm.trans ht'
      exact .inr (sameEnd_errorExit s s')
    | ok r =>
      obtain ⟨i, rest⟩ := r
      have hi := decode_writingToken hdecode
      rw [decoderStep_token hlt hrest hdecode] at ht
      rw [decoderStep_token hlt' hrest' hdecode] at ht'
      rcases exec_token_cases hi h.inv hlt ht with ⟨hfits, ha⟩ | ⟨hunfit, rfl⟩ <;>
        rcases exec_token_cases hi h.inv' hlt' ht' with ⟨hfits', ha'⟩ | ⟨hunfit', rfl⟩
      · exact .inl (h.advance ha ha')
      · exact absurd (h.tokenFits_iff.2 hfits) hunfit'
      · exact absurd (h.tokenFits_iff.1 hfits') hunfit
      · exact .inr (sameEnd_errorExit s s')
  · cases (decoderStep_end heq).symm.trans ht
    cases (decoderStep_end (by omega)).symm.trans ht'
    exact .inr ⟨finishDecompress_status s, finishDecompress_status s', by
      rw [finishDecompress_result, finishDecompress_result, h.op]⟩

theorem runBusy_twin : ∀ {n : Nat} {s s' t t' : State}, DecoderTwin s s' → runBusy decoderStep n s = .next t →
    runBusy decoderStep n s' = .next t' → DecoderTwin t t' ∨ SameEnd t t'
  | 0, s, s', t, t', h, ht, ht' => by cases ht; cases ht'; exact .inl h
  | n + 1, s, s', t, t', h, ht, ht' => by
    rw [runBusy, h.busy] at ht
    rw [runBusy, h.busy'] at ht'
    obtain ⟨u, hu, ht⟩ := andThen_next ht
    obtain ⟨u', hu', ht'⟩ := andThen_next ht'
    rcases decoderStep_twin h hu hu' with htwin | hend
    · exact runBusy_twin htwin ht ht'
    · rw [runBusy_idle (by rw [hend.done]; decide)] at ht
      rw [runBusy_idle (by rw [hend.done']; decide)] at ht'
      cases ht
      cases ht'
      exact .inr hend

end

theorem launchDecompress_ip (s : State) : (launchDecompress s).dec.ip = 0 := rfl
theorem launchDecompress_op (s : State) : (launchDecompress s).dec.op = 0 := rfl

theorem launchDecompress_twin {s s' : State} (hr : DecompressReady s) (hr' : DecompressReady s')
    (hin : s.inLen = s'.inLen) (hcap : s.outCap = s'.outCap) (hdist : s.dist0 = s'.dist0)
    (hinput : SameInput s s' s.inN) : DecoderTwin (launchDecompress s) (launchDecompress s') := by
  have f := sameBut_launchDecompress s
  have f' := sameBut_launchDecompress s'
  have hi : (launchDecompress s).inLen = s.inLen := f .inLen (by decide)
  have hc : (launchDecompress s).outCap = s.outCap := f .outCap (by decide)
  have hd : (launchDecompress s).dist0 = s.dist0 := f .dist0 (by decide)
  have hm : (launchDecompress s).inMem = s.inMem := f .inMem (by decide)
  have hm' : (launchDecompress s').inMem = s'.inMem := f' .inMem (by decide)
  constructor
  · rfl
  · rfl
  · exact launchDecompress_decoderInv hr
  · exact launchDecompress_decoderInv hr'
  · exact (hi.trans hin).trans (f' .inLen (by decide)).symm
  · exact (hc.trans hcap).trans (f' .outCap (by decide)).symm
  · exact (hd.trans hdist).trans (f' .dist0 (by decide)).symm
  · rw [SameInput, State.inN, hi, hm, hm']
    exact hinput
  · rw [launchDecompress_ip, launchDecompress_ip]
  · rw [launchDecompress_op, launchDecompress_op]

/-- Settles O52: the launches stand together, and every step keeps the two commands together up to their end. -/
theorem decompressResultDependsOnStream : Obligations.DecompressResultDependsOnStream := by
  intro s s' t t' hr hr' hin hcap hdist hinput ht ht'
  have htwin := launchDecompress_twin hr hr' hin hcap hdist hinput
  have hdone := execDecompress_done ht
  obtain ⟨-, ht⟩ := execDecompress_next ht
  obtain ⟨-, ht'⟩ := execDecompress_next ht'
  rw [State.inN, ← hin] at ht'
  rcases runBusy_twin htwin ht ht' with hrun | hend
  · exact nomatch hdone.symm.trans hrun.busy
  · exact hend.result

end Sys2Proof.Proofs

/-! SUPPORT. Streams that are cut (R215): what the decoder reads from the beginning of a stream, and how a DECOMPRESS of it ends. -/

namespace Sys2Proof.Proofs

open Sys2Proof.Machine Sys2Proof.Safety

/-! ## The decoder on a stream and on its beginning -/

section
variable {bs tail rest left cut : List Byte} {tag : Byte} {i j : Instr}

theorem varintDec_append {x : Nat} (h : varintDec bs = some (x, tail)) :
    varintDec (bs ++ cut) = some (x, tail ++ cut) := by
  obtain ⟨used, hw, rfl, hx⟩ := varintDec_eq_some_iff.1 h
  exact varintDec_eq_some_iff.2 ⟨used, hw, List.append_assoc _ _ _, hx⟩

theorem decodeDist_append {dist : BitVec 17} (h : decodeDist tag bs = some (dist, rest)) :
    decodeDist tag (bs ++ cut) = some (dist, rest ++ cut) := by
  obtain ⟨hhi, rfl⟩ := decodeDist_eq_some_iff.1 h
  exact decodeDist_eq_some_iff.2 ⟨hhi, List.append_assoc _ _ _⟩

/-- Match fields are read the same whatever follows them. -/
theorem decodeMatch_append {short : BitVec 4 → BitVec 17 → Instr} {long : Nat → BitVec 17 → Instr}
    (h : decodeMatch tag bs short long = .ok (i, rest)) :
    decodeMatch tag (bs ++ cut) short long = .ok (i, rest ++ cut) := by
  refine decodeMatch_eq_ok_iff.2 ?_
  rcases decodeMatch_eq_ok_iff.1 h with ⟨h15, dist, hdist, hi⟩ | ⟨h15, x, tail, dist, hvar, hdist, hi⟩
  · exact .inl ⟨h15, dist, decodeDist_append hdist, hi⟩
  · exact .inr ⟨h15, x, tail ++ cut, dist, varintDec_append hvar, decodeDist_append hdist, hi⟩

/-- What the beginning of a stream reads as, beside the whole stream: the same token, or the L token of its literals (R93). -/
inductive CutToken (cut : List Byte) (i : Instr) (rest : List Byte) : Instr → List Byte → Prop
  | same {left : List Byte} (behind : rest = left ++ cut) : CutToken cut i rest i left
  | literals {j : Instr} (some_cut : cut ≠ []) (final : j.isFinal = true) (lits_eq : lits j = lits i)
      (wf : i.wf = true → j.wf = true) : CutToken cut i rest j []

/-- The L form of a run carries the literals of its LM forms, and is well formed where they are. -/
structure FinalForm (final : BitVec 5 → List Byte → Instr) (short : List Byte → BitVec 4 → BitVec 17 → Instr)
    (long : List Byte → Nat → BitVec 17 → Instr) : Prop where
  isFinal : ∀ low ls, (final low ls).isFinal = true
  lits : ∀ low ls, Safety.lits (final low ls) = ls
  short : ∀ low ls c d, Safety.lits (short ls c d) = ls ∧ ((short ls c d).wf = true → (final low ls).wf = true)
  long : ∀ low ls x d, Safety.lits (long ls x d) = ls ∧ ((long ls x d).wf = true → (final low ls).wf = true)

theorem shortLits_final : FinalForm .lS .lmSS .lmSX where
  isFinal _ _ := rfl
  lits _ _ := rfl
  short _ _ _ _ := ⟨rfl, fun h => (Bool.and_eq_true_iff.1 h).1⟩
  long _ _ _ _ := ⟨rfl, fun h => (Bool.and_eq_true_iff.1 h).1⟩

theorem longLits_final : FinalForm .lX .lmXS .lmXX where
  isFinal _ _ := rfl
  lits _ _ := rfl
  short _ _ _ _ := ⟨rfl, fun h => (Bool.and_eq_true_iff.1 h).1⟩
  long _ _ _ _ := ⟨rfl, fun h => (Bool.and_eq_true_iff.1 h).1⟩

theorem decodeLits_cut {run : Nat} {final : BitVec 5 → List Byte → Instr}
    {short : List Byte → BitVec 4 → BitVec 17 → Instr} {long : List Byte → Nat → BitVec 17 → Instr}
    (hforms : FinalForm final short long) (hi : decodeLits run tag (bs ++ cut) final short long = .ok (i, rest))
    (hj : decodeLits run tag bs final short long = .ok (j, left)) : CutToken cut i rest j left := by
  obtain ⟨ls, tail, hlen, rfl, hcase⟩ := decodeLits_eq_ok_iff.1 hj
  rw [List.append_assoc, decodeLits_append hlen] at hi
  rcases hcase with ⟨rfl, rfl, rfl⟩ | hmatch
  · rw [List.nil_append] at hi
    split at hi
    · next hcut => cases hi; exact .same hcut.symm
    · next hcut =>
      obtain ⟨hlits, hwf⟩ := decodeMatch_ok
        (P := fun i => lits i = ls ∧ (i.wf = true → (final (tagLow tag) ls).wf = true))
        (hforms.short _ ls) (hforms.long _ ls) hi
      exact .literals hcut (hforms.isFinal _ ls) ((hforms.lits _ ls).trans hlits.symm) hwf
  · have hne : tail ≠ [] := by
      rintro rfl
      exact decodeMatch_nil_ne_ok hmatch
    rw [if_neg (fun h => hne (List.append_eq_nil_iff.1 h).1), decodeMatch_append hmatch] at hi
    cases hi
    exact .same rfl

/-- The beginning of a stream holds no whole token, or one that stands for what the stream's first token stands for. -/
theorem decode_cut (hi : decode (bs ++ cut) = .ok (i, rest)) (hj : decode bs = .ok (j, left)) :
    CutToken cut i rest j left := by
  cases bs with
  | nil => cases hj
  | cons tag bs =>
    rw [List.cons_append, decode] at hi
    rcases decode_cons_eq_ok_iff.1 hj with ⟨h0, hj⟩ | ⟨h0, h7, hj⟩ | ⟨h7, run, tail, hrun, hvar, hj⟩
    · rw [if_pos h0, decodeMatch_append hj] at hi
      cases hi
      exact .same rfl
    · rw [if_neg h0, if_neg h7] at hi
      exact decodeLits_cut shortLits_final hi hj
    · rw [if_neg (by omega), if_pos h7, varintDec_append hvar] at hi
      dsimp only at hi
      rw [Nat.add_sub_of_le hrun] at hi
      exact decodeLits_cut longLits_final hi hj

end

/-! ## Reading a cut stream -/

theorem stream_nil {m : Memory} {len n : Nat} (h : Stream m len n []) : n = len := by
  generalize hbs : ([] : List Byte) = bs at h
  cases h with
  | done => rfl
  | token copies encoded last more =>
    obtain ⟨rfl, -⟩ := List.append_eq_nil_iff.1 hbs.symm
    exact absurd encoded (encode_ne_nil _)

/-- A running DECOMPRESS that has written the first `op` bytes of an input of length `len`, and whose stream is the rest of a
stream for it, `cut` missing at its end; it is used up where its last token was cut behind its literals. -/
structure CutReading (m : Memory) (len : Nat) (cut : List Byte) (s : State) : Prop where
  inv : DecoderInv s
  written : Reproduces m s
  stream : ∃ bs, streamRest s = some bs ∧
    (Stream m len s.decOp (bs ++ cut) ∨ (bs = [] ∧ cut ≠ [] ∧ s.decOp ≤ len))

/-- A DECOMPRESS that has ended in an error or with the first bytes of the input, all of it where nothing was cut. -/
structure CutDelivered (m : Memory) (len : Nat) (cut : List Byte) (s : State) : Prop where
  done : s.status = .done
  outcome : s.result = 0xFFFFFFFF#32 ∨
    (s.result.toNat ≤ len ∧ (∀ a, a < s.result.toNat → s.outMem.byte? a = m.byte? a) ∧ (cut = [] → s.result.toNat = len))

section
variable {m : Memory} {len : Nat} {bs cut : List Byte} {s t : State}

theorem cutDelivered_errorExit (s : State) : CutDelivered m len cut (errorExit s) :=
  ⟨errorExit_status s, .inl (errorExit_result s)⟩

/-- At the end of the stream what was written is the beginning of the input (R210). -/
theorem CutReading.finish (h : CutReading m len cut s) (hip : s.ipN = s.inN) :
    CutDelivered m len cut (finishDecompress s) := by
  obtain ⟨bs, hrest, hstream⟩ := h.stream
  obtain rfl : bs = [] := List.length_eq_zero_iff.1 (by rw [streamRest_length hrest]; omega)
  have hlen : s.decOp ≤ len ∧ (cut = [] → s.decOp = len) := by
    rcases hstream with hstream | ⟨-, hcut, hle⟩
    · exact ⟨stream_le hstream, fun hcut => stream_nil (m := m) (by rw [hcut] at hstream; exact hstream)⟩
    · exact ⟨hle, fun h0 => absurd h0 hcut⟩
  refine ⟨finishDecompress_status s, .inr ?_⟩
  rw [finishDecompress_result]
  refine ⟨hlen.1, fun a ha => ?_, hlen.2⟩
  rw [finishDecompress_outMem, Memory.byte?_scramble_outside (.inl ha), h.written a ha]

/-- A token that stands for the next input bytes writes them, or its output does not fit and the command ends. -/
theorem exec_copies {i : Instr} {used left : List Byte} (hinv : DecoderInv s) (hwritten : Reproduces m s)
    (hrest : streamRest s = some (used ++ left)) (hcopies : Copies m s.decOp i) (hused : encode i = some used)
    (hip : s.ipN < s.inN) (h : exec i s = .next t) :
    (t.status = s.status ∧ DecoderInv t ∧ Reproduces m t ∧ streamRest t = some left ∧
      t.decOp = s.decOp + (lits i).length + matchLen i) ∨ t = errorExit s := by
  obtain ⟨hN, -⟩ := hinv.operands
  obtain ⟨-, hlent, -⟩ := hinv.buffers
  rcases exec_token_cases (writingToken_of_wf hcopies.isToken hcopies.wf) hinv hip h with ⟨hfits, ha⟩ | ⟨-, rfl⟩
  · obtain ⟨u, hu, -, hr⟩ := tokenBody_reproduces hcopies hN hlent hfits.out hfits.bytes hwritten
    rw [exec_token hcopies.isToken, hu] at h
    cases h
    have hinN : t.inN = s.inN := congrArg BitVec.toNat ha.inLen
    have hmem : t.inMem = s.inMem := ha.frame .inMem (by decide)
    refine .inl ⟨ha.frame .status (by decide), ha.decoderInv hinv, hr, ?_, by rw [ha.op, Nat.add_assoc]⟩
    have hslice := slice_of_append hrest
    rwa [streamRest, hmem, hinN, (ha.ip hN hip.le).1, ← encode_length hused, ← Nat.sub_sub]
  · exact .inr rfl

/-- The literals of a token are an L token's own. -/
theorem Copies.of_lits {n : Nat} {i j : Instr} (h : Copies m n i) (hfinal : j.isFinal = true) (hlits : lits j = lits i)
    (hwf : i.wf = true → j.wf = true) : Copies m n j where
  isToken := (isToken_of_isFinal hfinal).1
  wf := hwf h.wf
  literals := hlits ▸ h.literals
  repeats hf := nomatch hf.symm.trans hfinal

/-- A step of such a DECOMPRESS reads on, or ends as R215 says. -/
theorem decoderStep_cutReading (h : CutReading m len cut s) :
    ∃ t, decoderStep s = .next t ∧ ((t.status = s.status ∧ CutReading m len cut t) ∨ CutDelivered m len cut t) := by
  obtain ⟨t, ht⟩ := decoderStep_completes h.inv
  refine ⟨t, ht, ?_⟩
  rcases Nat.lt_or_eq_of_le h.inv.ip with hip | hip
  · obtain ⟨bs, hrest, hstream⟩ := h.stream
    have hlen := streamRest_length hrest
    have hne : bs ≠ [] := List.length_pos_iff.1 (by omega)
    have hstream := hstream.resolve_right fun h => hne h.1
    generalize hwhole : bs ++ cut = whole at hstream
    generalize hop : s.decOp = n at hstream
    cases hstream with
    | done => exact absurd (List.append_eq_nil_iff.1 hwhole).1 hne
    | token copies encoded last more =>
      rename_i i used rest
      subst hop
      have hi := (decode_eq_ok_iff copies.isToken copies.wf).2 ⟨last, used, encoded, rfl⟩
      rw [← hwhole] at hi
      cases hdecode : decode bs with
      | error e =>
        cases (decoderStep_reject hip hrest hdecode).symm.trans ht
        exact .inr (cutDelivered_errorExit s)
      | ok r =>
        obtain ⟨j, left⟩ := r
        rw [decoderStep_token hip hrest hdecode] at ht
        cases decode_cut hi hdecode with
        | same behind =>
          obtain ⟨-, used', hused', rfl⟩ := (decode_eq_ok_iff copies.isToken copies.wf).1 hdecode
          rcases exec_copies h.inv h.written hrest copies hused' hip ht with ⟨hst, hinv, hr, hleft, hopt⟩ | rfl
          · exact .inl ⟨hst, hinv, hr, left, hleft, .inl (by rw [hopt, ← behind]; exact more)⟩
          · exact .inr (cutDelivered_errorExit s)
        | literals some_cut final lits_eq wf =>
          have hcopies := copies.of_lits final lits_eq wf
          obtain ⟨-, used', hused', rfl⟩ := (decode_eq_ok_iff hcopies.isToken hcopies.wf).1 hdecode
          rcases exec_copies h.inv h.written hrest hcopies hused' hip ht with ⟨hst, hinv, hr, hleft, hopt⟩ | rfl
          · have hle := stream_le more
            rw [lits_eq, (isToken_of_isFinal final).2] at hopt
            exact .inl ⟨hst, hinv, hr, [], hleft, .inr ⟨rfl, some_cut, by omega⟩⟩
          · exact .inr (cutDelivered_errorExit s)
  · cases (decoderStep_end hip).symm.trans ht
    exact .inr (h.finish hip)

/-- A legal DECOMPRESS of the beginning of a stream for an input ends in an error or with its first bytes (R215). -/
theorem execDecompress_cutDelivered (hr : DecompressReady s) (hbs : s.inMem.slice 0 s.inN = some bs)
    (hstream : Stream m len 0 (bs ++ cut)) (ht : exec .decompress s = .next t) : CutDelivered m len cut t := by
  have hlaunch : CutReading m len cut (launchDecompress s) :=
    ⟨launchDecompress_decoderInv hr, fun _ ha => absurd ha (Nat.not_lt_zero _), bs,
      (launchDecompress_streamRest s).trans hbs, .inl hstream⟩
  obtain ⟨u, hu, hcase⟩ := runBusy_until (fun _ (hu : CutDelivered m len cut _) => hu.done)
    (fun _ => decoderStep_cutReading) (s.inN + 1) (s := launchDecompress s) rfl hlaunch
  rw [← exec_decompress_eq hr] at hu
  cases ht.symm.trans hu
  have hdone := execDecompress_done ht
  exact hcase.resolve_left fun hb => nomatch hdone.symm.trans hb.1

end

/-- Settles O53: the bytes that are there begin a stream for the input; a count beyond the capacity is never answered (R210). -/
theorem cutStreamGivesPrefixOrError : Obligations.CutStreamGivesPrefixOrError := by
  intro s t u v hw hs ht hu hN hsame hv
  obtain ⟨written, hwritten, hstream⟩ := (execCompress_next_compressed hw hs ht).stream
  obtain ⟨hlen, hbytes⟩ := slice_eq_some_iff.1 hwritten
  have hslice : u.inMem.slice 0 u.inN = some (written.take u.inN) := by
    refine slice_eq_some_iff.2 ⟨List.length_take_of_le (by omega), fun k hk => ?_⟩
    rw [hsame _ (by omega), hbytes k (by omega), List.getElem?_take_of_lt hk]
  have hcut := execDecompress_cutDelivered (cut := written.drop u.inN) hu hslice
    (by rw [List.take_append_drop]; exact hstream) hv
  refine ⟨hcut.outcome.imp_right fun h => ⟨h.1, h.2.1⟩, fun hwhole hcap => ?_⟩
  obtain ⟨v', hv', -, -, hend⟩ := decompressCompletes u hu
  cases hv.symm.trans hv'
  rcases hcut.outcome with herr | ⟨-, -, hall⟩
  · exact herr
  · have hcount := hall (List.drop_eq_nil_of_le (by omega))
    rcases hend with ⟨herr, -⟩ | ⟨hle, -⟩
    · exact herr
    · omega

end Sys2Proof.Proofs

/-! SUPPORT. Refused launches (R247): a command whose premises fail is refused at once, and one whose premises hold completes. -/

namespace Sys2Proof.Proofs

open Sys2Proof.Machine Sys2Proof.Safety

section
variable {s : State}

theorem exec_compress_refused (h : ¬CompressReady s) : ∃ r, exec .compress s = .refused r := by
  obtain ⟨r, hr⟩ := Option.ne_none_iff_exists'.1 (mt compressRefusal_none.1 h)
  exact ⟨r, by simp only [exec, execCompress, hr]⟩

theorem exec_decompress_refused (h : ¬DecompressReady s) : ∃ r, exec .decompress s = .refused r := by
  obtain ⟨r, hr⟩ := Option.ne_none_iff_exists'.1 (mt decompressRefusal_none.1 h)
  exact ⟨r, by simp only [exec, execDecompress, hr]⟩

end

/-- Settles O32: the launch tests exactly the premises, and a command past its launch answers a state (O31, O51), so that no
step of its run is refused. -/
theorem onlyBrokenPremisesRefused : Obligations.OnlyBrokenPremisesRefused := by
  refine ⟨fun _ => exec_compress_refused, fun _ => exec_decompress_refused, fun s r hw hrefused hready => ?_,
    fun s r hrefused hready => ?_⟩
  · obtain ⟨t, hnext, -⟩ := compressCompletes s hw hready
    exact nomatch hrefused.symm.trans hnext
  · obtain ⟨t, hnext, -⟩ := decompressCompletes s hready
    exact nomatch hrefused.symm.trans hnext

end Sys2Proof.Proofs
